-- ==== Sys2Proof/Word.lean ====
section
/-! DEFINITION. The words of the block: byte, beat, system address, half word, stamp. -/

namespace Sys2Proof

/-- One byte, as frames, record images and request data carry it. -/
abbrev Byte := BitVec 8

/-- A beat: 8 bytes of request data (1.5). Byte j of a beat is bits 8j + 7 to 8j, since all multi-byte quantities
are little-endian (1.6). -/
abbrev Beat := BitVec 64

/-- A system address (1.4). -/
abbrev Address := BitVec 40

/-- A two-byte number: a capture sequence, a limit, a counter, a set as a frame carries it. -/
abbrev HalfWord := BitVec 16

/-- A Time Base value (R164). -/
abbrev Stamp := BitVec 32

/-- A source ID, 0 to 63 (1.4). -/
abbrev SourceId := Fin 64

/-- The number of one of the 64 slots (1.4). -/
abbrev SlotId := Fin 64

/-- The index of one of the 16 Tracker entries, which is also the M-port tag (1.4). -/
abbrev Tag := Fin 16

/-- The 64-byte data area of a slot (R41). -/
abbrev Line := Vector Byte 64

/-- The 88 payload bytes of a frame (R145). -/
abbrev Payload := Vector Byte 88

end Sys2Proof
end

