-- ==== Sys2Proof/Config.lean ====
section
/-! DEFINITION. The fixed numbers of the part (1.4, R146). The spec leaves no value to an implementation and no value
free, so this file holds no opaque constant. -/

namespace Sys2Proof.Config

/-- Notes the Arrival History holds at most (R75). -/
abbrev historyCapacity : Nat := 32

/-- Notes one READ_HISTORY returns at most (R78). -/
abbrev historyBatch : Nat := 8

/-- Slots of a queue run at most (R80). -/
abbrev queueMax : Nat := 32

/-- Bytes of a Tool Link frame (R145). -/
abbrev frameBytes : Nat := 94

/-- Bits of a Tool Link frame (R145). -/
abbrev frameBits : Nat := 752

/-- The CRC polynomial (R146). -/
abbrev crcPolynomial : BitVec 16 := 0x8005#16

/-- The arbiter pointer after PORST and SRST (R137). -/
abbrev pointerReset : SourceId := 63

end Sys2Proof.Config
end

