-- ==== Sys2Proof/Syntax.lean ====
section
/-! DEFINITION. The commands and events of the block: one constructor of `Instr` per row of spec/opcode_table.json. -/

namespace Sys2Proof

/-- Access kind of a request (8.1). -/
inductive Kind | read | write
  deriving DecidableEq, Repr

/-- One beat of a write as the S-port carries it: its eight byte enables (bit j for byte j) and its eight bytes (8.1). -/
structure WriteBeat where
  enables : Byte
  data : Beat
  deriving DecidableEq, Repr

/-- A request at the S-port (8.1). `beats` is the number of beats as carried, any number on the wire; `write` holds the
byte enables and data of a write, beat by beat, and is empty for a read. -/
structure Request where
  kind : Kind
  address : Address
  beats : Nat
  write : List WriteBeat
  source : SourceId
  deriving DecidableEq, Repr

/-- Status of a memory response (8.4). -/
inductive MemStatus | done | fault
  deriving DecidableEq, Repr

/-- The bits the Link samples in one link period, in the order sampled (R145). -/
structure Period where
  bits : List Bool
  deriving DecidableEq, Repr

/-- The written fields of a match entry, each as the entry image carries it (1.1, 11.6): the two 40-bit fields and
thirteen bytes, stored whether or not they are in range (R9, R178). -/
structure EntryImage where
  base : Address
  careMask : Address
  access : Byte
  sourceRef : Byte
  sourceMask : Byte
  action : Byte
  captureSlot : Byte
  group : Byte
  runA : Byte
  runB : Byte
  runLength : Byte
  writePolicy : Byte
  fallback : Byte
  trigger : Byte
  oneShot : Byte
  deriving DecidableEq, Repr

/-- The commands and events of the block. A tool command carries the sequence byte of its frame and its argument bytes
as section 11.5 lays them out; its command code is the constructor's (11.2). -/
inductive Instr
  /-- PORST: PORST_N falls (R22, R130). -/
  | porst
  /-- PORST_RELEASE: PORST_N rises, with TL_CS_N low at that moment or, unless said otherwise, high (R128, R164, R147;
  log 11). -/
  | porstRelease (chipSelected : Bool := false)
  /-- SRST: SRST_N falls (R143). -/
  | srst
  /-- SRST_RELEASE: SRST_N rises (R128). -/
  | srstRelease
  /-- REQUEST_ACCEPT: the interconnect presents a request at the S-port (R128, R129). -/
  | requestAccept (request : Request)
  /-- CLASSIFY: the Classifier takes the accepted request (R24). -/
  | classify
  /-- START_TRIGGER: step 2 of the Classifier's work (R25, R115). -/
  | startTrigger
  /-- WATCH_ACTION: step 3 for a WATCH entry (R27). -/
  | watchAction
  /-- CAPTURE_SLOT_ACTION: step 3 for a CAPTURE_SLOT entry (R28). -/
  | captureSlotAction
  /-- CAPTURE_QUEUE_ACTION: step 3 for a CAPTURE_QUEUE entry (R29). -/
  | captureQueueAction
  /-- OVERLAY_ACTION: step 3 for an OVERLAY entry (R30). -/
  | overlayAction
  /-- HISTORY_APPEND: the note of a capture-slot record is appended (R76). -/
  | historyAppend
  /-- RECORD_NOTICE: the Session Controller takes the notice of a record made (R118). -/
  | recordNotice
  /-- STOP_TRIGGER: step 4 of the Classifier's work (R25, R116). -/
  | stopTrigger
  /-- ONE_SHOT_RETIRE: step 5 of the Classifier's work (R25, R18). -/
  | oneShotRetire
  /-- MPORT_SEND: the memory controller can take a request (R133). -/
  | mportSend
  /-- MEMORY_RESPONSE: a response arrives at the M-port with its tag, status and data beats (R134). -/
  | memoryResponse (tag : Tag) (status : MemStatus) (beats : List Beat)
  /-- TICK: one block clock, taken by the Time Base (R164). -/
  | tick
  /-- RESPONSE_LIMIT_EXPIRY: the response limit of a Tracker entry expires (R135). -/
  | responseLimitExpiry (entry : Tag)
  /-- STALL_LIMIT_EXPIRY: the stall limit timer expires (R107). -/
  | stallLimitExpiry
  /-- ARBITER_GRANT: the S-port response path can take a response (R137). -/
  | arbiterGrant
  /-- LINK_FAULT: a link period ends whose bits are short or hold a bad frame (R150). -/
  | linkFault (period : Period)
  /-- RESYNC: a complete resync frame (R153). -/
  | resync
  /-- DUPLICATE: a command frame that repeats the stored code and sequence (R152). -/
  | duplicate (code seq : Byte)
  /-- UNKNOWN_COMMAND: a command frame whose code names no command (R151, R177). -/
  | unknownCommand (code seq : Byte)
  /-- NOP (R158). -/
  | nop (seq : Byte)
  /-- GET_STATUS (R159). -/
  | getStatus (seq : Byte)
  /-- CLEAR_UNIT (R161). -/
  | clearUnit (seq : Byte)
  /-- WRITE_ENTRY (R9). -/
  | writeEntry (seq index : Byte) (image : EntryImage)
  /-- READ_ENTRY (R10). -/
  | readEntry (seq index : Byte)
  /-- ENABLE_ENTRY (R11). -/
  | enableEntry (seq index : Byte)
  /-- DISABLE_ENTRY (R17). -/
  | disableEntry (seq index : Byte)
  /-- CLEAR_ENTRY_COUNTS (R21). -/
  | clearEntryCounts (seq index : Byte)
  /-- SET_MODE (R33). -/
  | setMode (seq mode : Byte)
  /-- TAKE_SLOT (R52). -/
  | takeSlot (seq slot : Byte)
  /-- RELEASE_SLOT (R53). -/
  | releaseSlot (seq slot : Byte)
  /-- WRITE_SLOT (R55): the frame carries 64 data bytes, of which the first `length` are written (11.5). -/
  | writeSlot (seq slot offset length : Byte) (data : Line)
  /-- READ_SLOT (R56). -/
  | readSlot (seq slot : Byte)
  /-- ACK_SLOT (R73). -/
  | ackSlot (seq slot : Byte) (sequence : HalfWord)
  /-- READ_HISTORY (R78). -/
  | readHistory (seq : Byte)
  /-- CONFIG_QUEUE (R82). -/
  | configQueue (seq first count mode watermark : Byte)
  /-- POP_QUEUE (R90). -/
  | popQueue (seq : Byte)
  /-- SWITCH_BANK (R105). -/
  | switchBank (seq group bank : Byte)
  /-- SESSION_ARM (R121). -/
  | sessionArm (seq count : Byte)
  /-- SESSION_RUN (R122). -/
  | sessionRun (seq count : Byte)
  /-- SESSION_HALT (R123). -/
  | sessionHalt (seq : Byte)
  /-- SESSION_CLEAR (R124). -/
  | sessionClear (seq : Byte)
  /-- SET_LIMITS (R142). -/
  | setLimits (seq : Byte) (response stall : HalfWord)
  /-- SET_TIMEBASE (R165). -/
  | setTimebase (seq : Byte) (prescaler : HalfWord) (load : Byte) (value : Stamp)
  /-- READ_COUNTERS (R174). -/
  | readCounters (seq : Byte)
  /-- CLEAR_COUNTERS (R175). -/
  | clearCounters (seq : Byte) (set : HalfWord)
  /-- SET_ALERT_ENABLE (R171). -/
  | setAlertEnable (seq : Byte) (set : HalfWord)
  /-- ACK_ALERT (R172). -/
  | ackAlert (seq : Byte) (set : HalfWord)
  deriving DecidableEq, Repr

end Sys2Proof
end

