-- ==== Sys2Proof/Decode.lean ====
section
/-! DEFINITION. The Tool Link's wire form: bits, bytes, CRC and the checks of R149 that turn a link period into one row of
the table; the frame of a tool command; and the host's word decoder, which has no row to decode. -/

namespace Sys2Proof

/-! ### Bits and bytes -/

/-- The bits of a byte as the Link carries them, most significant first (R145). -/
def bitsOfByte (b : Byte) : List Bool :=
  [b.getLsbD 7, b.getLsbD 6, b.getLsbD 5, b.getLsbD 4, b.getLsbD 3, b.getLsbD 2, b.getLsbD 1, b.getLsbD 0]

/-- The byte whose eight bits, most significant first, are given. -/
def byteOfBits (b7 b6 b5 b4 b3 b2 b1 b0 : Bool) : Byte :=
  BitVec.ofBool b7 ++ BitVec.ofBool b6 ++ BitVec.ofBool b5 ++ BitVec.ofBool b4
    ++ BitVec.ofBool b3 ++ BitVec.ofBool b2 ++ BitVec.ofBool b1 ++ BitVec.ofBool b0

/-- The whole bytes of a run of bits, in order (R145). -/
def bytesOfBits : List Bool → List Byte
  | b7 :: b6 :: b5 :: b4 :: b3 :: b2 :: b1 :: b0 :: rest => byteOfBits b7 b6 b5 b4 b3 b2 b1 b0 :: bytesOfBits rest
  | _ => []

/-- The period in which the Link samples exactly the given bytes. -/
def Period.ofBytes (bytes : List Byte) : Period := { bits := bytes.flatMap bitsOfByte }

/-- Byte `k` of a word, byte 0 the least significant (1.6). -/
def byteAt {w : Nat} (x : BitVec w) (k : Nat) : Byte := x.extractLsb' (8 * k) 8

/-- The `n` low bytes of a word, little-endian (1.6). -/
def leBytes {w : Nat} (n : Nat) (x : BitVec w) : List Byte := (List.range n).map (byteAt x)

/-! ### CRC (R146) -/

/-- One shift of the CRC register (R146). -/
def crcShift (r : BitVec 16) : BitVec 16 :=
  if r.msb then (r <<< 1) ^^^ Config.crcPolynomial else r <<< 1

/-- One byte taken into the CRC register: into the high eight bits, then eight shifts (R146). -/
def crcByte (r : BitVec 16) (b : Byte) : BitVec 16 :=
  crcShift^[8] (r ^^^ (b.setWidth 16 <<< 8))

/-- The CRC of a run of bytes (R146). -/
def crc16 (bytes : List Byte) : BitVec 16 := bytes.foldl crcByte 0#16

/-- A body of 92 bytes with its CRC after it, low byte first (R146). -/
def withCrc (body : List Byte) : List Byte := body ++ leBytes 2 (crc16 body)

/-! ### Taking a period (R149) -/

/-- Why a period is a link fault (R150). -/
inductive LinkReason | short | crc | kind | header
  deriving DecidableEq, Repr

/-- What the frame of a period is, before the stored command is consulted (R149, checks 1 to 5). -/
inductive Taken
  | fault (reason : LinkReason)
  | resync
  | command (code seq : Byte) (payload : List Byte)
  deriving DecidableEq, Repr

/-- Checks 2 to 5 of R149 on a whole frame. -/
def frameTaken (frame : List Byte) : Taken :=
  if (frame.drop 92).take 2 ≠ leBytes 2 (crc16 (frame.take 92)) then .fault .crc
  else if frame.getD 0 0 = 0xC3#8 then .resync
  else if frame.getD 0 0 ≠ 0x3C#8 then .fault .kind
  else if frame.getD 3 0 ≠ 0x00#8 then .fault .header
  else .command (frame.getD 1 0) (frame.getD 2 0) ((frame.drop 4).take 88)

/-- Checks 1 to 5 of R149: a period of fewer than 752 bits is short, and bits after the 752nd are ignored (R145). -/
def Period.taken (p : Period) : Taken :=
  if p.bits.length < Config.frameBits then .fault .short
  else frameTaken (bytesOfBits (p.bits.take Config.frameBits))

/-! ### Command codes and arguments (11.2, 11.5, R177) -/

/-- The codes that name a command (11.2). -/
def commandCodes : List Nat :=
  [0x01, 0x02, 0x03, 0x10, 0x11, 0x12, 0x13, 0x14, 0x18, 0x20, 0x21, 0x22, 0x23, 0x28,
   0x29, 0x30, 0x31, 0x38, 0x40, 0x41, 0x42, 0x43, 0x48, 0x50, 0x51, 0x52, 0x53, 0x54]

/-- Whether a code names a command (R177). -/
def namesCommand (code : Byte) : Bool := commandCodes.contains code.toNat

/-- Payload byte `k`; a byte beyond the list is zero. -/
def argByte (p : List Byte) (k : Nat) : Byte := p.getD k 0#8

/-- The two-byte field at payload byte `k`, little-endian. -/
def argHalf (p : List Byte) (k : Nat) : HalfWord := argByte p (k + 1) ++ argByte p k

/-- The four-byte field at payload byte `k`, little-endian. -/
def argStamp (p : List Byte) (k : Nat) : Stamp :=
  argByte p (k + 3) ++ argByte p (k + 2) ++ argByte p (k + 1) ++ argByte p k

/-- The five-byte address or mask at payload byte `k`, little-endian. -/
def argAddress (p : List Byte) (k : Nat) : Address :=
  argByte p (k + 4) ++ argByte p (k + 3) ++ argByte p (k + 2) ++ argByte p (k + 1) ++ argByte p k

/-- The 64 bytes from payload byte `k`. -/
def argLine (p : List Byte) (k : Nat) : Line := Vector.ofFn fun i => argByte p (k + i.val)

/-- The 23-byte entry image from payload byte `k` (11.6). -/
def argImage (p : List Byte) (k : Nat) : EntryImage :=
  { base := argAddress p k
    careMask := argAddress p (k + 5)
    access := argByte p (k + 10)
    sourceRef := argByte p (k + 11)
    sourceMask := argByte p (k + 12)
    action := argByte p (k + 13)
    captureSlot := argByte p (k + 14)
    group := argByte p (k + 15)
    runA := argByte p (k + 16)
    runB := argByte p (k + 17)
    runLength := argByte p (k + 18)
    writePolicy := argByte p (k + 19)
    fallback := argByte p (k + 20)
    trigger := argByte p (k + 21)
    oneShot := argByte p (k + 22) }

/-- The command that a code, a sequence and a payload name (11.2, 11.5); a code that names none is UNKNOWN_COMMAND
(R151, R177). Payload bytes beyond the arguments are ignored (R151). -/
def commandOf (code seq : Byte) (p : List Byte) : Instr :=
  match code.toNat with
  | 0x01 => .nop seq
  | 0x02 => .getStatus seq
  | 0x03 => .clearUnit seq
  | 0x10 => .writeEntry seq (argByte p 0) (argImage p 1)
  | 0x11 => .readEntry seq (argByte p 0)
  | 0x12 => .enableEntry seq (argByte p 0)
  | 0x13 => .disableEntry seq (argByte p 0)
  | 0x14 => .clearEntryCounts seq (argByte p 0)
  | 0x18 => .setMode seq (argByte p 0)
  | 0x20 => .takeSlot seq (argByte p 0)
  | 0x21 => .releaseSlot seq (argByte p 0)
  | 0x22 => .writeSlot seq (argByte p 0) (argByte p 1) (argByte p 2) (argLine p 3)
  | 0x23 => .readSlot seq (argByte p 0)
  | 0x28 => .ackSlot seq (argByte p 0) (argHalf p 1)
  | 0x29 => .readHistory seq
  | 0x30 => .configQueue seq (argByte p 0) (argByte p 1) (argByte p 2) (argByte p 3)
  | 0x31 => .popQueue seq
  | 0x38 => .switchBank seq (argByte p 0) (argByte p 1)
  | 0x40 => .sessionArm seq (argByte p 0)
  | 0x41 => .sessionRun seq (argByte p 0)
  | 0x42 => .sessionHalt seq
  | 0x43 => .sessionClear seq
  | 0x48 => .setLimits seq (argHalf p 0) (argHalf p 2)
  | 0x50 => .setTimebase seq (argHalf p 0) (argByte p 2) (argStamp p 3)
  | 0x51 => .readCounters seq
  | 0x52 => .clearCounters seq (argHalf p 0)
  | 0x53 => .setAlertEnable seq (argHalf p 0)
  | 0x54 => .ackAlert seq (argHalf p 0)
  | _ => .unknownCommand code seq

/-- The row of the table that a link period is, by the checks of R149 in their order: a link fault, a resync, NOP, a
duplicate of the stored command (its code and sequence given), or a command to execute. -/
def linkInstr (stored : Option (Byte × Byte)) (p : Period) : Instr :=
  match p.taken with
  | .fault _ => .linkFault p
  | .resync => .resync
  | .command code seq payload =>
    if code = 0x01#8 then .nop seq
    else if stored = some (code, seq) then .duplicate code seq
    else commandOf code seq payload

/-! ### The frame of a command (11.1, 11.5) -/

/-- The bytes of an entry image, image byte 0 first (11.6). -/
def imageBytes (m : EntryImage) : List Byte :=
  leBytes 5 m.base ++ leBytes 5 m.careMask ++
    [m.access, m.sourceRef, m.sourceMask, m.action, m.captureSlot, m.group, m.runA, m.runB, m.runLength,
     m.writePolicy, m.fallback, m.trigger, m.oneShot]

/-- The code, sequence and argument bytes of a command frame, for the rows that are one: the 28 commands and a frame of
an unknown code (11.2, 11.5). -/
def commandFields : Instr → Option (Byte × Byte × List Byte)
  | .porst => none
  | .porstRelease _ => none
  | .srst => none
  | .srstRelease => none
  | .requestAccept _ => none
  | .classify => none
  | .startTrigger => none
  | .watchAction => none
  | .captureSlotAction => none
  | .captureQueueAction => none
  | .overlayAction => none
  | .historyAppend => none
  | .recordNotice => none
  | .stopTrigger => none
  | .oneShotRetire => none
  | .mportSend => none
  | .memoryResponse _ _ _ => none
  | .tick => none
  | .responseLimitExpiry _ => none
  | .stallLimitExpiry => none
  | .arbiterGrant => none
  | .linkFault _ => none
  | .resync => none
  | .duplicate _ _ => none
  | .unknownCommand code seq => some (code, seq, [])
  | .nop seq => some (0x01#8, seq, [])
  | .getStatus seq => some (0x02#8, seq, [])
  | .clearUnit seq => some (0x03#8, seq, [])
  | .writeEntry seq index image => some (0x10#8, seq, index :: imageBytes image)
  | .readEntry seq index => some (0x11#8, seq, [index])
  | .enableEntry seq index => some (0x12#8, seq, [index])
  | .disableEntry seq index => some (0x13#8, seq, [index])
  | .clearEntryCounts seq index => some (0x14#8, seq, [index])
  | .setMode seq mode => some (0x18#8, seq, [mode])
  | .takeSlot seq slot => some (0x20#8, seq, [slot])
  | .releaseSlot seq slot => some (0x21#8, seq, [slot])
  | .writeSlot seq slot offset length data => some (0x22#8, seq, slot :: offset :: length :: data.toList)
  | .readSlot seq slot => some (0x23#8, seq, [slot])
  | .ackSlot seq slot sequence => some (0x28#8, seq, slot :: leBytes 2 sequence)
  | .readHistory seq => some (0x29#8, seq, [])
  | .configQueue seq first count mode watermark => some (0x30#8, seq, [first, count, mode, watermark])
  | .popQueue seq => some (0x31#8, seq, [])
  | .switchBank seq group bank => some (0x38#8, seq, [group, bank])
  | .sessionArm seq count => some (0x40#8, seq, [count])
  | .sessionRun seq count => some (0x41#8, seq, [count])
  | .sessionHalt seq => some (0x42#8, seq, [])
  | .sessionClear seq => some (0x43#8, seq, [])
  | .setLimits seq response stall => some (0x48#8, seq, leBytes 2 response ++ leBytes 2 stall)
  | .setTimebase seq prescaler load value => some (0x50#8, seq, leBytes 2 prescaler ++ load :: leBytes 4 value)
  | .readCounters seq => some (0x51#8, seq, [])
  | .clearCounters seq set => some (0x52#8, seq, leBytes 2 set)
  | .setAlertEnable seq set => some (0x53#8, seq, leBytes 2 set)
  | .ackAlert seq set => some (0x54#8, seq, leBytes 2 set)

/-- The 94 bytes of a command frame: kind 3Ch, code, sequence, zero byte, the arguments followed by zeros, and the CRC
(R145, 11.1). -/
def commandFrame (code seq : Byte) (args : List Byte) : List Byte :=
  withCrc ([0x3C#8, code, seq, 0x00#8] ++ args ++ List.replicate (88 - args.length) 0x00#8)

/-- The frame the tool sends for a command, for the rows that are a command frame. -/
def encodeFrame (i : Instr) : Option (List Byte) :=
  (commandFields i).map fun f => commandFrame f.1 f.2.1 f.2.2

/-! ### The host's word decoder -/

/-- The command a table word spells. No row of spec/opcode_table.json has bits, so none is spelt (log 16). -/
def decodeTableWord (_nbits _w : Nat) : Option Instr := none

end Sys2Proof
end

