-- ==== Sys2Proof/WellFormed.lean ====
section
/-! DEFINITION. When a term of `Instr` is one the block can meet: the checks that the operand types leave open. -/

namespace Sys2Proof

/-- A request carries byte enables and data for each of its beats if it is a write, and none if it is a read (8.1). -/
def Request.wellFormed (r : Request) : Bool :=
  match r.kind with
  | .read => r.write.isEmpty
  | .write => r.write.length == r.beats

/-- Whether a period is a link fault by checks 1 to 5 of R149. -/
def Period.isFault (p : Period) : Bool :=
  match p.taken with
  | .fault _ => true
  | .resync => false
  | .command _ _ _ => false

/-- A term of `Instr` that the block can meet: a LINK_FAULT holds a faulty period (R150), an UNKNOWN_COMMAND a code
that names no command (R177), a DUPLICATE a code that is not NOP (R158), a REQUEST_ACCEPT a whole request (8.1). -/
def Instr.wellFormed : Instr → Bool
  | .requestAccept r => r.wellFormed
  | .linkFault p => p.isFault
  | .unknownCommand code _ => !namesCommand code
  | .duplicate code _ => code != 0x01#8
  | .porst => true
  | .porstRelease _ => true
  | .srst => true
  | .srstRelease => true
  | .classify => true
  | .startTrigger => true
  | .watchAction => true
  | .captureSlotAction => true
  | .captureQueueAction => true
  | .overlayAction => true
  | .historyAppend => true
  | .recordNotice => true
  | .stopTrigger => true
  | .oneShotRetire => true
  | .mportSend => true
  | .memoryResponse _ _ _ => true
  | .tick => true
  | .responseLimitExpiry _ => true
  | .stallLimitExpiry => true
  | .arbiterGrant => true
  | .resync => true
  | .nop _ => true
  | .getStatus _ => true
  | .clearUnit _ => true
  | .writeEntry _ _ _ => true
  | .readEntry _ _ => true
  | .enableEntry _ _ => true
  | .disableEntry _ _ => true
  | .clearEntryCounts _ _ => true
  | .setMode _ _ => true
  | .takeSlot _ _ => true
  | .releaseSlot _ _ => true
  | .writeSlot _ _ _ _ _ => true
  | .readSlot _ _ => true
  | .ackSlot _ _ _ => true
  | .readHistory _ => true
  | .configQueue _ _ _ _ _ => true
  | .popQueue _ => true
  | .switchBank _ _ _ => true
  | .sessionArm _ _ => true
  | .sessionRun _ _ => true
  | .sessionHalt _ => true
  | .sessionClear _ => true
  | .setLimits _ _ _ => true
  | .setTimebase _ _ _ _ => true
  | .readCounters _ => true
  | .clearCounters _ _ => true
  | .setAlertEnable _ _ => true
  | .ackAlert _ _ => true

end Sys2Proof
end

