-- ==== Sys2Proof/Machine/State.lean ====
section
/-! DEFINITION. The state of the block as plain data, its faults and refusals, and the state after PORST. -/

namespace Sys2Proof.Machine

/-! ### Match Table (chapter 1) -/

/-- State of a match entry (R1). -/
inductive EntryState | off | on
  deriving DecidableEq, Repr

/-- A match entry: its state, its written fields as stored, its hit and miss counts (1.1). -/
structure MatchEntry where
  state : EntryState
  image : EntryImage
  hits : BitVec 16
  misses : BitVec 16
  deriving DecidableEq, Repr

/-- The entry image whose bytes are all zero: the written fields after PORST (R22, R178). -/
def imageZero : EntryImage :=
  { base := 0, careMask := 0, access := 0, sourceRef := 0, sourceMask := 0, action := 0, captureSlot := 0, group := 0,
    runA := 0, runB := 0, runLength := 0, writePolicy := 0, fallback := 0, trigger := 0, oneShot := 0 }

/-- A match entry after PORST and CLEAR_UNIT (R22). -/
def MatchEntry.porst : MatchEntry := { state := .off, image := imageZero, hits := 0, misses := 0 }

/-! ### Slot Store (chapter 3) -/

/-- Owner of a slot (R40). -/
inductive Owner | unit | tool
  deriving DecidableEq, Repr

/-- Whether a slot holds a record (R42). -/
inductive RecordState | empty | held
  deriving DecidableEq, Repr

/-- Progress of a captured request at memory (R72). -/
inductive RecordOutcome | pending | done | memFault | abandoned
  deriving DecidableEq, Repr

/-- A slot: owner, capture record descriptor and data area (R40, R41, R42). Place i of `enables` is the byte enable of
data-area byte i. -/
structure Slot where
  owner : Owner
  record : RecordState
  new : Bool
  overrun : Bool
  sequence : BitVec 16
  timeStamp : Stamp
  lineAddress : Address
  firstBeat : BitVec 3
  beats : Nat
  enables : Vector Bool 64
  kind : Kind
  source : SourceId
  outcome : RecordOutcome
  data : Line
  deriving DecidableEq, Repr

/-- A slot after PORST and CLEAR_UNIT (R58). -/
def Slot.porst : Slot :=
  { owner := .unit, record := .empty, new := false, overrun := false, sequence := 0, timeStamp := 0, lineAddress := 0,
    firstBeat := 0, beats := 1, enables := Vector.replicate 64 false, kind := .read, source := 0, outcome := .done,
    data := Vector.replicate 64 0 }

/-- The tie of a request to its record: the slot and the record's sequence (R47, R130). -/
structure CaptureLink where
  slot : SlotId
  sequence : BitVec 16
  deriving DecidableEq, Repr

/-! ### Arrival History (chapter 4) -/

/-- A note of the Arrival History (R75). -/
structure Note where
  slot : SlotId
  sequence : BitVec 16
  deriving DecidableEq, Repr

/-! ### Capture Queue (chapter 5) -/

/-- Treatment of a capture offered to a full queue (R80). -/
inductive QueueMode | stopWhenFull | ring
  deriving DecidableEq, Repr

/-- The queue's configuration and ring state (R80, R81); `count` 0 means unconfigured. -/
structure Queue where
  first : Nat
  count : Nat
  mode : QueueMode
  watermark : Nat
  oldest : Nat
  occupancy : Nat
  deriving DecidableEq, Repr

/-- The unconfigured queue, as after PORST and CLEAR_UNIT (R80, R81). -/
def Queue.unconfigured : Queue :=
  { first := 0, count := 0, mode := .stopWhenFull, watermark := 0, oldest := 0, occupancy := 0 }

/-! ### Overlay (chapter 6) -/

/-- A bank of an overlay group (R96). -/
inductive Bank | a | b
  deriving DecidableEq, Repr

/-! ### Session Controller (chapter 7) -/

/-- State of the acquisition session (R113). -/
inductive SessionState | idle | armed | running | stopping | frozen
  deriving DecidableEq, Repr

/-- The Session Controller's two items (R113). -/
structure Session where
  state : SessionState
  remaining : BitVec 8
  deriving DecidableEq, Repr

/-! ### Timers (10.2) -/

/-- A limit timer (R130, R103, R167): without limit; with ticks left; or brought to 0, so that its expiry is the next
event of the timer (log 4). -/
inductive LimitTimer
  | unlimited
  | running (ticks : BitVec 16)
  | expiryDue
  deriving DecidableEq, Repr

/-! ### Transaction Tracker (chapter 8) -/

/-- State of a Tracker entry (R130). -/
inductive TrackState | free | classifying | forwarded | held | orphaned
  deriving DecidableEq, Repr

/-- Status of an S-port response (R140). -/
inductive RespStatus | done | memoryFault | rejected | noAnswer | overlayUnavailable
  deriving DecidableEq, Repr

/-- A response as a Tracker entry buffers it (R130). -/
structure Response where
  status : RespStatus
  beats : List Beat
  deriving DecidableEq, Repr

/-- A Tracker entry (R130). -/
structure TrackerEntry where
  state : TrackState
  source : SourceId
  kind : Kind
  beats : Nat
  link : Option CaptureLink
  slotServed : Bool
  orphan : Bool
  sent : Bool
  buffer : Option Response
  timer : LimitTimer
  deriving DecidableEq, Repr

/-- A Tracker entry after PORST (R130). -/
def TrackerEntry.porst : TrackerEntry :=
  { state := .free, source := 0, kind := .read, beats := 0, link := none, slotServed := false, orphan := false,
    sent := false, buffer := none, timer := .unlimited }

/-- A place in the M-port send list: the Tracker entry and the request held for it (R133). -/
structure SendItem where
  entry : Tag
  request : Request
  deriving DecidableEq, Repr

/-- The Transaction Tracker: entries (R130), order lists (R131), send list (R133), arbiter pointer (R137) and the two limit
values (R142). -/
structure Tracker where
  entries : Vector TrackerEntry 16
  orders : Vector (List Tag) 64
  sendList : List SendItem
  pointer : SourceId
  responseLimit : BitVec 16
  stallLimit : BitVec 16
  deriving DecidableEq, Repr

/-- The Tracker after PORST (R130, R131, R133, R137, R142). -/
def Tracker.porst : Tracker :=
  { entries := Vector.replicate 16 TrackerEntry.porst, orders := Vector.replicate 64 [], sendList := [],
    pointer := Config.pointerReset, responseLimit := 0, stallLimit := 0 }

/-! ### Classifier (chapter 2) -/

/-- The unit mode (R32). -/
inductive Mode | bypass | active | draining
  deriving DecidableEq, Repr

/-- The governing entry of a request as its lookup found it (R7): the index, and the fields, which hold for the request
to the end of the Classifier's work on it (log 5). `renewed`: the entry has been enabled again since the lookup, so that
the request is not the first it governs after it was last enabled (R18). `stopIgnored`: a session command that fell
together with the request's STOP trigger has taken the session out of FROZEN, and the trigger is ignored (R125, last row;
log 26). -/
structure Governor where
  index : Fin 32
  image : EntryImage
  renewed : Bool
  stopIgnored : Bool
  deriving DecidableEq, Repr

/-- Which step of the Classifier's work on the request is next (R24, R25, R60): the mode check and lookup; the START
trigger; the action; the history note of a record made; the Session Controller's notice of a record made; a stall, with
its slot and timer (R102); the STOP trigger; the one-shot retirement. -/
inductive Stage
  | lookup
  | start (g : Governor)
  | action (g : Governor)
  | append (g : Governor) (note : Note)
  | notice (g : Governor)
  | stalled (g : Governor) (slot : SlotId) (timer : LimitTimer)
  | stop (g : Governor)
  | retire (g : Governor)
  deriving DecidableEq, Repr

/-- The request under classification, its Tracker entry, and the step that is next (R23). -/
structure Work where
  request : Request
  entry : Tag
  stage : Stage
  deriving DecidableEq, Repr

/-! ### Time Base, alerts and counters (chapter 10) -/

/-- Settings of SET_TIMEBASE that wait for the next tick (R165). -/
structure PendingBase where
  prescaler : Nat
  load : Option Stamp
  deriving DecidableEq, Repr

/-- The Time Base (R164, R165). -/
structure TimeBase where
  value : Stamp
  prescaler : Nat
  phase : Nat
  waiting : Option PendingBase
  deriving DecidableEq, Repr

/-- The Time Base after PORST (R164). -/
def TimeBase.porst : TimeBase := { value := 0, prescaler := 1, phase := 0, waiting := none }

/-- The Alert and Counter Unit: pending set and enable set, bit n for cause n (R168, 11.9), and the eleven unit counters,
counter n at place n (R173, 11.10). -/
structure Alerts where
  pendingSet : BitVec 11
  enableSet : BitVec 11
  counters : Vector (BitVec 16) 11
  deriving DecidableEq, Repr

/-- The Alert and Counter Unit after PORST and CLEAR_UNIT (R176). -/
def Alerts.porst : Alerts := { pendingSet := 0, enableSet := 0, counters := Vector.replicate 11 0 }

/-! ### Tool Link (chapter 9) -/

/-- Status of an answer (R155). -/
inductive Status | ok | accepted | busy | badState | badArg | notOwner | empty | stale | unknown | linkFault
  deriving DecidableEq, Repr

/-- What an executed command returns to the Link: a status and a payload (R151). -/
structure Answer where
  status : Status
  payload : Payload
  deriving DecidableEq, Repr

/-- The stored command and the stored response, which are set and cleared together (R147). -/
structure StoredCommand where
  code : Byte
  seq : Byte
  answer : Answer
  deriving DecidableEq, Repr

/-- Kind of a frame the Link sends: 00h, 5Ah, 5Bh (R154). -/
inductive FrameKind | none | response | replayed
  deriving DecidableEq, Repr

/-- An outgoing frame: header fields and payload (R147, 11.1). Its CRC is computed when it is sent (R146). -/
structure AnswerFrame where
  kind : FrameKind
  code : Byte
  seq : Byte
  status : Status
  payload : Payload
  deriving DecidableEq, Repr

/-- The payload of 88 zero bytes (R154). -/
def payloadZero : Payload := Vector.replicate 88 0

/-- The frame of kind 00h, whose bytes 1 to 91 are zero (R154, R181); 00h is also the code of OK (11.3). -/
def AnswerFrame.ofNone : AnswerFrame := { kind := .none, code := 0, seq := 0, status := .ok, payload := payloadZero }

/-- The Tool Link's items (R147). `awaitsHigh`: TL_CS_N was low when PORST ended, and the Link waits for it to go high. -/
structure ToolLink where
  stored : Option StoredCommand
  outgoing : AnswerFrame
  awaitsHigh : Bool
  deriving DecidableEq, Repr

/-- The Tool Link after PORST (R147), with nothing to wait for until PORST ends. -/
def ToolLink.porst : ToolLink := { stored := none, outgoing := AnswerFrame.ofNone, awaitsHigh := false }

/-! ### Ports -/

/-- A response as it leaves the S-port (R140). -/
structure PortResponse where
  source : SourceId
  status : RespStatus
  beats : List Beat
  deriving DecidableEq, Repr

/-- A request as it leaves the M-port, without its source ID (R133). -/
structure PortRequest where
  tag : Tag
  kind : Kind
  address : Address
  beats : Nat
  write : List WriteBeat
  deriving DecidableEq, Repr

/-! ### The machine -/

/-- The state of the block. -/
@[ext]
structure State where
  /-- The Match Table's 32 entries (R1). -/
  table : Vector MatchEntry 32
  /-- The unit mode (R32). -/
  mode : Mode
  /-- The request under classification (R23). -/
  work : Option Work
  /-- The 64 slots (R40). -/
  slots : Vector Slot 64
  /-- The capture sequence counter (R57). -/
  captureSeq : BitVec 16
  /-- The Arrival History, oldest first (R75). -/
  history : List Note
  /-- The Capture Queue's configuration and ring state (R80, R81). -/
  queue : Queue
  /-- The four bank selectors (R96). -/
  banks : Vector Bank 4
  /-- The Session Controller (R113). -/
  session : Session
  /-- The Transaction Tracker (R130). -/
  tracker : Tracker
  /-- The Time Base (R164). -/
  timeBase : TimeBase
  /-- The Alert and Counter Unit (R168, R173). -/
  alerts : Alerts
  /-- The Tool Link (R147). -/
  toolLink : ToolLink
  /-- PORST_N is low (1.7). -/
  porstAsserted : Bool
  /-- SRST_N is low (1.7). -/
  srstAsserted : Bool
  /-- The response last sent at the S-port (log 12). -/
  sportResponse : Option PortResponse
  /-- The request last passed at the M-port (log 12). -/
  mportRequest : Option PortRequest
  /-- The commands that wait, first in, first out. -/
  pending : List Instr
  deriving DecidableEq, Repr

/-- Why a step could stop with a fault. The spec gives every command an outcome, so there is no fault: nothing raises
one, and leaving faults out is safe because no step stops. -/
inductive Fault
  deriving DecidableEq, Repr

/-- Why a step could be refused. -/
inductive Refusal
  /-- A command that has no meaning in the model, by its mnemonic. Only exec's own arms could raise it, and none does;
  a refusal is safe. -/
  | notModelled (mnemonic : String)
  deriving DecidableEq, Repr

/-- The block right after PORST: every item at the value its chapter gives (R22, R32, R58, R75, R80, R81, R112, R127, R130,
R137, R142, R147, R164, R176), PORST_N, SRST_N and TL_CS_N high (log 9), nothing sent yet (log 12), no command waiting. -/
def State.reset : State :=
  { table := Vector.replicate 32 MatchEntry.porst
    mode := .bypass
    work := none
    slots := Vector.replicate 64 Slot.porst
    captureSeq := 0
    history := []
    queue := Queue.unconfigured
    banks := Vector.replicate 4 .a
    session := { state := .idle, remaining := 0 }
    tracker := Tracker.porst
    timeBase := TimeBase.porst
    alerts := Alerts.porst
    toolLink := ToolLink.porst
    porstAsserted := false
    srstAsserted := false
    sportResponse := none
    mportRequest := none
    pending := [] }

end Sys2Proof.Machine
end

