-- ==== Sys2Proof/Machine/Flags.lean ====
section
/-! DEFINITION. The Alert and Counter Unit: causes, counters, notices and the ALERT line (chapter 10). -/

namespace Sys2Proof.Machine

/-- The eleven alert causes (R168). -/
inductive Cause
  | frozen | watermark | queueLoss | historyLoss | overrun | stallExpired | drainDone | memoryFault | noAnswer | reject
  | linkFault
  deriving DecidableEq, Repr

/-- The bit of a cause in a cause set (11.9). -/
def Cause.bit : Cause → Fin 11
  | .frozen => 0
  | .watermark => 1
  | .queueLoss => 2
  | .historyLoss => 3
  | .overrun => 4
  | .stallExpired => 5
  | .drainDone => 6
  | .memoryFault => 7
  | .noAnswer => 8
  | .reject => 9
  | .linkFault => 10

/-- The eleven unit counters (R173). -/
inductive Counter
  | rejects | memoryFaults | noAnswers | lateResponses | strayResponses | stallExpiries | queueDrops | queueOverwrites
  | historyLosses | discardedFills | linkFaults
  deriving DecidableEq, Repr

/-- The place of a counter in the counter block (11.10). -/
def Counter.place : Counter → Fin 11
  | .rejects => 0
  | .memoryFaults => 1
  | .noAnswers => 2
  | .lateResponses => 3
  | .strayResponses => 4
  | .stallExpiries => 5
  | .queueDrops => 6
  | .queueOverwrites => 7
  | .historyLosses => 8
  | .discardedFills => 9
  | .linkFaults => 10

/-- A 16-bit count raised by one, holding at 65535 (R19, R20, R173). -/
def satInc (x : BitVec 16) : BitVec 16 := if x = 65535#16 then x else x + 1#16

/-- The value of a unit counter (R173). -/
def State.counter (s : State) (k : Counter) : BitVec 16 := s.alerts.counters[k.place]

/-- Whether a cause is pending (R168). -/
def State.isPending (s : State) (c : Cause) : Bool := s.alerts.pendingSet.getLsbD c.bit.val

/-- Whether a cause is enabled (R168). -/
def State.isEnabled (s : State) (c : Cause) : Bool := s.alerts.enableSet.getLsbD c.bit.val

/-- A notice that raises a cause: its pending flag is set, whatever the enable set holds (R169). -/
def State.raise (c : Cause) (s : State) : State :=
  { s with alerts := { s.alerts with pendingSet := s.alerts.pendingSet ||| BitVec.twoPow 11 c.bit.val } }

/-- A notice that raises a counter by one (R173). -/
def State.count (k : Counter) (s : State) : State :=
  { s with alerts := { s.alerts with counters := s.alerts.counters.set k.place (satInc s.alerts.counters[k.place]) } }

/-- A notice that names both a counter and a cause, taken as one event (R169). -/
def State.countAndRaise (k : Counter) (c : Cause) (s : State) : State := (s.count k).raise c

/-- The set a two-byte image names, or none if it names a position other than the eleven (R180). -/
def setOfImage (image : HalfWord) : Option (BitVec 11) :=
  if image >>> 11 = 0#16 then some (image.setWidth 11) else none

/-- The level of an output pin: driven low, driven high, or not driven. -/
inductive PinLevel | low | high | highZ
  deriving DecidableEq, Repr

/-- The ALERT line: asserted while a cause is both pending and enabled (R170). -/
def State.alert (s : State) : Bool := s.alerts.pendingSet &&& s.alerts.enableSet != 0#11

/-- The ALERT_N pin: open drain, driven low while ALERT is asserted, and not driven while PORST_N is low (R170). -/
def State.alertN (s : State) : PinLevel := if s.alert && !s.porstAsserted then .low else .highZ

end Sys2Proof.Machine
end

