-- ==== Sys2Proof/Machine/Operands.lean ====
section
/-! DEFINITION. The coded operands and the answer formats of chapter 11: value codes, the fields of an entry image, requests as
bytes of a line, payloads, statuses and reasons. -/

namespace Sys2Proof.Machine

/-! ### Value codes (11.4) -/

/-- What a match entry asks for (1.1). -/
inductive Action | watch | captureSlot | captureQueue | overlay
  deriving DecidableEq, Repr

/-- The action a byte codes, or none outside the range (11.4, R178). -/
def actionOf (b : Byte) : Option Action :=
  match b.toNat with
  | 0 => some .watch
  | 1 => some .captureSlot
  | 2 => some .captureQueue
  | 3 => some .overlay
  | _ => none

/-- The bank a byte codes (11.4). -/
def bankOf (b : Byte) : Option Bank :=
  match b.toNat with
  | 0 => some .a
  | 1 => some .b
  | _ => none

/-- The queue mode a byte codes (11.4). -/
def queueModeOf (b : Byte) : Option QueueMode :=
  match b.toNat with
  | 0 => some .stopWhenFull
  | 1 => some .ring
  | _ => none

/-- The lines of a run-length code, 0 for a byte that is none (11.4). -/
def linesOf (b : Byte) : Nat :=
  match b.toNat with
  | 0 => 1
  | 1 => 2
  | 2 => 4
  | 3 => 8
  | 4 => 16
  | _ => 0

/-- Code of an entry state (11.4). -/
def EntryState.code : EntryState → Byte
  | .off => 0
  | .on => 1

/-- Code of a unit mode (11.4). -/
def Mode.code : Mode → Byte
  | .bypass => 0
  | .active => 1
  | .draining => 2

/-- Code of a session state (11.4). -/
def SessionState.code : SessionState → Byte
  | .idle => 0
  | .armed => 1
  | .running => 2
  | .stopping => 3
  | .frozen => 4

/-- Code of a queue mode (11.4). -/
def QueueMode.code : QueueMode → Byte
  | .stopWhenFull => 0
  | .ring => 1

/-- The role of a slot (R44). -/
inductive Role | unbound | capture | overlay | queue
  deriving DecidableEq, Repr

/-- Code of a slot role (11.4). -/
def Role.code : Role → Nat
  | .unbound => 0
  | .capture => 1
  | .overlay => 2
  | .queue => 3

/-- Code of a record's outcome (11.4). -/
def RecordOutcome.code : RecordOutcome → Nat
  | .pending => 0
  | .done => 1
  | .memFault => 2
  | .abandoned => 3

/-- Code of a status (11.3). -/
def Status.code : Status → Byte
  | .ok => 0x00
  | .accepted => 0x01
  | .busy => 0x02
  | .badState => 0x03
  | .badArg => 0x04
  | .notOwner => 0x05
  | .empty => 0x06
  | .stale => 0x07
  | .unknown => 0x08
  | .linkFault => 0x09

/-- Why an argument is refused (R156). -/
inductive Reason
  | index | action | field | slotRange | windowShape | noQueue | slotConflict | slotOwner | extent
  deriving DecidableEq, Repr

/-- Code of a BAD_ARG reason (11.3). -/
def Reason.code : Reason → Byte
  | .index => 0x01
  | .action => 0x02
  | .field => 0x03
  | .slotRange => 0x04
  | .windowShape => 0x05
  | .noQueue => 0x06
  | .slotConflict => 0x07
  | .slotOwner => 0x08
  | .extent => 0x09

/-- Code of a LINK_FAULT reason (11.3). -/
def linkReasonCode : LinkReason → Byte
  | .short => 0x10
  | .crc => 0x11
  | .kind => 0x12
  | .header => 0x13

/-- Kind byte of an outgoing frame (11.1). -/
def FrameKind.code : FrameKind → Byte
  | .none => 0x00
  | .response => 0x5A
  | .replayed => 0x5B

/-! ### Answers -/

/-- A payload that starts with the given bytes, every further byte zero (R154). -/
def payloadOf (bytes : List Byte) : Payload := Vector.ofFn fun i => bytes.getD i.val 0

/-- An answer with an all-zero payload (11.11). -/
def answer (status : Status) : Answer := { status := status, payload := payloadZero }

/-- A BAD_ARG answer with its reason in payload byte 0 (R154, R156). -/
def badArg (reason : Reason) : Answer := { status := .badArg, payload := payloadOf [reason.code] }

/-- An answer that carries results. -/
def answerWith (status : Status) (bytes : List Byte) : Answer := { status := status, payload := payloadOf bytes }

/-- The bytes of an outgoing frame, its CRC computed over its own bytes 0 to 91 (R146, R181). -/
def AnswerFrame.bytes (f : AnswerFrame) : List Byte :=
  withCrc ([f.kind.code, f.code, f.seq, f.status.code] ++ f.payload.toList)

/-! ### Fields of an entry image (1.1, R2, R178) -/

/-- The trigger role is START (11.4). -/
def isStart (m : EntryImage) : Bool := m.trigger == 0x01#8

/-- The trigger role is STOP (11.4). -/
def isStop (m : EntryImage) : Bool := m.trigger == 0x02#8

/-- The one-shot field is YES (11.4). -/
def isOneShot (m : EntryImage) : Bool := m.oneShot == 0x01#8

/-- The write policy is FORWARD (11.4). -/
def isForward (m : EntryImage) : Bool := m.writePolicy == 0x01#8

/-- The fallback policy is STALL (11.4). -/
def isStall (m : EntryImage) : Bool := m.fallback == 0x01#8

/-- Run B first slot, or none for ABSENT: the byte is the first slot plus one (R178). -/
def runBFirst (m : EntryImage) : Option Nat := if m.runB = 0x00#8 then none else some (m.runB.toNat - 1)

/-- The slot numbers of a run. -/
def runSlots (first lines : Nat) : List Nat := (List.range lines).map (first + ·)

/-- The slots of run A, and of run B if present, of an overlay image (R16). -/
def overlaySlots (m : EntryImage) : List Nat :=
  runSlots m.runA.toNat (linesOf m.runLength) ++
    match runBFirst m with
    | none => []
    | some first => runSlots first (linesOf m.runLength)

/-- The slots an image names: its capture slot, or the slots of its runs; WATCH and CAPTURE_QUEUE name none (R16). -/
def namedSlots (m : EntryImage) : List Nat :=
  match actionOf m.action with
  | some .captureSlot => [m.captureSlot.toNat]
  | some .overlay => overlaySlots m
  | some .watch => []
  | some .captureQueue => []
  | none => []

/-! ### Requests (8.1) -/

/-- The beat of its line at which a request begins: bits 5–3 of its address (R61). -/
def firstBeat (r : Request) : BitVec 3 := r.address.extractLsb' 3 3

/-- The line address of a request: its address with bits 5–0 clear (R61). -/
def lineAddress (r : Request) : Address := r.address &&& 0xFFFFFFFFC0#40

/-- The acceptance checks of R129. -/
def acceptable (r : Request) : Bool :=
  r.address.extractLsb' 0 3 == 0#3 && decide (1 ≤ r.beats) && decide (r.beats ≤ 8)
    && decide ((firstBeat r).toNat + r.beats ≤ 8)

/-- Whether byte `i` of the line lies in the beats of a request that starts at beat `first` and has `n` beats. -/
def inBeats (first n i : Nat) : Bool := decide (first ≤ i / 8) && decide (i / 8 < first + n)

/-- The byte a write request puts at byte `i` of its line, or none if the request does not enable that byte: byte j of
request beat b goes to byte 8 × (first beat + b) + j (R61, R99). A beat that the term does not carry enables nothing. -/
def writeByte (r : Request) (i : Nat) : Option Byte :=
  if inBeats (firstBeat r).toNat r.beats i then
    match r.write[i / 8 - (firstBeat r).toNat]? with
    | none => none
    | some w => if w.enables.getLsbD (i % 8) then some (byteAt w.data (i % 8)) else none
  else none

/-- The byte enables of a request's record: the enabled bytes of a write (R61), every requested byte of a read (R62). -/
def recordEnables (r : Request) : Vector Bool 64 :=
  Vector.ofFn fun i =>
    match r.kind with
    | .write => (writeByte r i.val).isSome
    | .read => inBeats (firstBeat r).toNat r.beats i.val

/-! ### Lines (R41) -/

/-- Byte `n` of a line, zero beyond it. -/
def lineByte (d : Line) (n : Nat) : Byte := if h : n < 64 then d[n] else 0

/-- A line with some of its bytes replaced. -/
def mergeLine (d : Line) (f : Nat → Option Byte) : Line := Vector.ofFn fun i => (f i.val).getD d[i]

/-- Beat `b` of a line, bytes 8b to 8b + 7, byte 8b the least significant (R41, 1.6). -/
def lineBeat (d : Line) (b : Nat) : Beat :=
  lineByte d (8 * b + 7) ++ lineByte d (8 * b + 6) ++ lineByte d (8 * b + 5) ++ lineByte d (8 * b + 4)
    ++ lineByte d (8 * b + 3) ++ lineByte d (8 * b + 2) ++ lineByte d (8 * b + 1) ++ lineByte d (8 * b)

/-- `n` beats of a line from beat `first` on (R98). -/
def lineBeats (d : Line) (first n : Nat) : List Beat := (List.range n).map fun i => lineBeat d (first + i)

/-- The first `n` beats of a memory response: further ones are ignored and a missing one is zero (R134). -/
def takenBeats (n : Nat) (beats : List Beat) : List Beat := (List.range n).map fun i => beats.getD i 0

/-- The byte a read fill puts at byte `i` of the line: response beat b goes to beat first + b (R66). -/
def fillByte (first n : Nat) (beats : List Beat) (i : Nat) : Option Byte :=
  if inBeats first n i then some (byteAt (beats.getD (i / 8 - first) 0) (i % 8)) else none

/-- The byte WRITE_SLOT puts at byte `i`: offset to offset + length − 1 take the first bytes of the data (R55). -/
def extentByte (offset length : Nat) (data : Line) (i : Nat) : Option Byte :=
  if offset ≤ i ∧ i < offset + length then some (lineByte data (i - offset)) else none

/-! ### Formats (11.6 to 11.10) -/

/-- Whether an owner is TOOL. -/
def Owner.isTool : Owner → Bool
  | .unit => false
  | .tool => true

/-- Whether a record state is HELD. -/
def RecordState.isHeld : RecordState → Bool
  | .empty => false
  | .held => true

/-- Whether a kind is WRITE. -/
def isWrite : Kind → Bool
  | .read => false
  | .write => true

/-- Byte j of the packed byte enables, bit i for data-area byte 8j + i (11.7). -/
def enableByte (e : Vector Bool 64) (j : Nat) : Byte :=
  let bit := fun i => (e.toList.getD (8 * j + i) false)
  byteOfBits (bit 7) (bit 6) (bit 5) (bit 4) (bit 3) (bit 2) (bit 1) (bit 0)

/-- The slot snapshot of 88 bytes (11.7, R179). -/
def snapshotBytes (number : SlotId) (role : Role) (sl : Slot) : List Byte :=
  [BitVec.ofNat 8 number.val,
   byteOfBits false false false (isWrite sl.kind) sl.overrun sl.new sl.record.isHeld sl.owner.isTool,
   BitVec.ofNat 8 (role.code + 16 * sl.outcome.code),
   BitVec.ofNat 8 sl.source.val,
   BitVec.ofNat 8 (sl.firstBeat.toNat + 8 * (sl.beats - 1))]
  ++ leBytes 2 sl.sequence ++ leBytes 4 sl.timeStamp ++ leBytes 5 sl.lineAddress
  ++ (List.range 8).map (enableByte sl.enables) ++ sl.data.toList

/-- The READ_ENTRY answer: index, state, image, hit count, miss count (11.6). -/
def entryBytes (index : Byte) (e : MatchEntry) : List Byte :=
  [index, e.state.code] ++ imageBytes e.image ++ leBytes 2 e.hits ++ leBytes 2 e.misses

/-- A history note: the slot and the sequence (11.8). -/
def noteBytes (n : Note) : List Byte := BitVec.ofNat 8 n.slot.val :: leBytes 2 n.sequence

/-- A set as two bytes, bits 11 to 15 zero (11.9, R180). -/
def setBytes (x : BitVec 11) : List Byte := leBytes 2 (x.setWidth 16)

/-- The counter block of 22 bytes (11.10). -/
def counterBytes (a : Alerts) : List Byte := a.counters.toList.flatMap (leBytes 2)

end Sys2Proof.Machine
end

