-- ==== Sys2Proof/Machine/Ops.lean ====
section
/-! DEFINITION. The named operations over the state that several families share: reading and writing one entry, slot, Tracker
entry or order list, and the Tracker's two ways to end the Classifier's decision. -/

namespace Sys2Proof.Machine

/-! ### Reading and writing one place -/

/-- Match entry `i` (R1). -/
def State.matchEntry (s : State) (i : Fin 32) : MatchEntry := s.table[i]

/-- The state with match entry `i` replaced. -/
def State.setMatch (s : State) (i : Fin 32) (e : MatchEntry) : State := { s with table := s.table.set i e }

/-- Slot `n` (R40). -/
def State.slot (s : State) (n : SlotId) : Slot := s.slots[n]

/-- The state with slot `n` replaced: one access to the Slot Store, applied whole (R45). -/
def State.setSlot (s : State) (n : SlotId) (sl : Slot) : State := { s with slots := s.slots.set n sl }

/-- Tracker entry `t` (R130). -/
def State.track (s : State) (t : Tag) : TrackerEntry := s.tracker.entries[t]

/-- The state with Tracker entry `t` replaced. -/
def State.setTrack (s : State) (t : Tag) (e : TrackerEntry) : State :=
  { s with tracker := { s.tracker with entries := s.tracker.entries.set t e } }

/-- The order list of a source (R131). -/
def State.order (s : State) (src : SourceId) : List Tag := s.tracker.orders[src]

/-- The state with the order list of a source replaced. -/
def State.setOrder (s : State) (src : SourceId) (l : List Tag) : State :=
  { s with tracker := { s.tracker with orders := s.tracker.orders.set src l } }

/-- The state with the send list replaced (R133). -/
def State.setSendList (s : State) (l : List SendItem) : State :=
  { s with tracker := { s.tracker with sendList := l } }

/-- The state with the request under classification replaced (R23). -/
def State.setWork (s : State) (w : Option Work) : State := { s with work := w }

/-- The state with the unit mode replaced (R32). -/
def State.setMode (s : State) (m : Mode) : State := { s with mode := m }

/-- The state with the session replaced (R113). -/
def State.setSession (s : State) (x : Session) : State := { s with session := x }

/-- The state with the queue replaced (R80, R81). -/
def State.setQueue (s : State) (q : Queue) : State := { s with queue := q }

/-! ### Counts of the Tracker -/

/-- How many Tracker entries are in a state (R130). -/
def State.trackCount (s : State) (t : TrackState) : Nat :=
  s.tracker.entries.toList.countP fun e => e.state == t

/-- Whether any Tracker entry carries the slot-served mark (R31). -/
def State.anySlotServed (s : State) : Bool := s.tracker.entries.toList.any fun e => e.slotServed

/-- The lowest-index FREE Tracker entry (R128). -/
def State.lowestFree (s : State) : Option Tag :=
  (List.finRange 16).find? fun t => (s.track t).state == TrackState.free

/-! ### Match entry counts (R19, R20) -/

/-- The hit count of an entry rises by one (R19). -/
def State.hit (s : State) (i : Fin 32) : State :=
  s.setMatch i { s.matchEntry i with hits := satInc (s.matchEntry i).hits }

/-- The miss count of an entry rises by one (R20). -/
def State.miss (s : State) (i : Fin 32) : State :=
  s.setMatch i { s.matchEntry i with misses := satInc (s.matchEntry i).misses }

/-- An entry turns OFF, its fields and counts kept (R1). -/
def State.turnOff (s : State) (i : Fin 32) : State := s.setMatch i { s.matchEntry i with state := .off }

/-! ### Limit timers (10.2) -/

/-- A timer loaded from a limit value: 0 loads unlimited, L of 1 or more loads L (R132, R103). -/
def loadTimer (limit : BitVec 16) : LimitTimer := if limit = 0#16 then .unlimited else .running limit

/-- A tick falls on a timer: it is lowered by one, and the tick that brings it to 0 leaves its expiry to be taken by the
block that owns it, before any event that would discard the timer and before the next tick (R167; log 4). -/
def tickTimer : LimitTimer → LimitTimer
  | .unlimited => .unlimited
  | .running n => if n.toNat ≤ 1 then .expiryDue else .running (n - 1#16)
  | .expiryDue => .expiryDue

/-! ### Ending the Classifier's decision (R132) -/

/-- The Tracker takes a forwarded request: its entry becomes FORWARDED, not sent, with its remaining ticks loaded from the
response limit; it joins the tail of its source's order list, and then the send list (R132). The capture link, if any,
is already in the entry. -/
def State.forward (s : State) (w : Work) : State :=
  let e := s.track w.entry
  let s := s.setTrack w.entry
    { e with state := .forwarded, slotServed := false, sent := false, timer := loadTimer s.tracker.responseLimit }
  let s := s.setOrder e.source (s.order e.source ++ [w.entry])
  s.setSendList (s.tracker.sendList ++ [{ entry := w.entry, request := w.request }])

/-- The Tracker takes a local answer: its entry becomes HELD with the response in its buffer, with the slot-served mark
or without, and joins the tail of its source's order list; no timer is loaded (R132, R31). -/
def State.answerLocally (s : State) (w : Work) (response : Response) (served : Bool) : State :=
  let e := s.track w.entry
  let s := s.setTrack w.entry { e with state := .held, slotServed := served, buffer := some response }
  s.setOrder e.source (s.order e.source ++ [w.entry])

/-- A Tracker entry that leaves: link, marks, buffer and remaining ticks cleared (R137, R143; log 13). -/
def TrackerEntry.cleared (e : TrackerEntry) (state : TrackState) : TrackerEntry :=
  { e with state := state, link := none, slotServed := false, orphan := false, buffer := none, timer := .unlimited }

/-- The Classifier after step 4: step 5 is next for a one-shot entry, and otherwise the work is done (R25). -/
def State.afterStop (s : State) (w : Work) (g : Governor) : State :=
  if isOneShot g.image then s.setWork (some { w with stage := .retire g }) else s.setWork none

/-- The Classifier after step 3: step 4 is next for an entry with trigger role STOP, and otherwise as after step 4 (R25). -/
def State.afterAction (s : State) (w : Work) (g : Governor) : State :=
  if isStop g.image then s.setWork (some { w with stage := .stop g }) else s.afterStop w g

/-- Step 3 ends by forwarding the request (R24, R27 to R30). -/
def State.forwardAndGoOn (s : State) (w : Work) (g : Governor) : State := (s.forward w).afterAction w g

/-! ### The stall (R35, R102) -/

/-- The stall in progress, if any: its work, governing entry, slot and timer (R102). -/
def State.stall (s : State) : Option (Work × Governor × SlotId × LimitTimer) :=
  match s.work with
  | none => none
  | some w =>
    match w.stage with
    | .stalled g slot timer => some (w, g, slot, timer)
    | .lookup => none
    | .start _ => none
    | .action _ => none
    | .append _ _ => none
    | .notice _ => none
    | .stop _ => none
    | .retire _ => none

/-- The governing entry of the work, once the lookup has found one (R7). -/
def Stage.governor : Stage → Option Governor
  | .lookup => none
  | .start g => some g
  | .action g => some g
  | .append g _ => some g
  | .notice g => some g
  | .stalled g _ _ => some g
  | .stop g => some g
  | .retire g => some g

/-- The stage with something changed in its governing entry, if it has one. -/
def Stage.mapGovernor (f : Governor → Governor) : Stage → Stage
  | .lookup => .lookup
  | .start g => .start (f g)
  | .action g => .action (f g)
  | .append g note => .append (f g) note
  | .notice g => .notice (f g)
  | .stalled g slot timer => .stalled (f g) slot timer
  | .stop g => .stop (f g)
  | .retire g => .retire (f g)

/-- The state with something changed in the governing entry of the request under classification. -/
def State.mapGovernor (s : State) (f : Governor → Governor) : State :=
  s.setWork (s.work.map fun w => { w with stage := w.stage.mapGovernor f })

/-- A one-shot entry turns OFF for a request it governs, unless it has been enabled again since the lookup: the request is
then not the first it governs after it was last enabled (R18). -/
def State.retire (s : State) (g : Governor) : State := if g.renewed then s else s.turnOff g.index

/-! ### The queue run (R80) -/

/-- Whether a slot number lies in the run of the configured queue (R80). -/
def Queue.inRun (q : Queue) (n : Nat) : Bool := decide (q.first ≤ n) && decide (n < q.first + q.count)

/-- The slot of position `p` of the run (R80). -/
def Queue.slotAt (q : Queue) (p : Nat) : SlotId := Fin.ofNat 64 (q.first + p)

/-- Every slot of a run has its record state set EMPTY, the other fields kept (R43, R83, R93). -/
def emptyRun (q : Queue) (slots : Vector Slot 64) : Vector Slot 64 :=
  Vector.ofFn fun i => if q.inRun i.val then { slots[i] with record := .empty } else slots[i]

/-! ### Names and roles (R16, R44) -/

/-- Whether an entry is ON with the given action (R44). -/
def MatchEntry.acts (e : MatchEntry) (a : Action) : Bool := e.state == .on && actionOf e.image.action == some a

/-- Whether an ON entry names a slot number (R16). -/
def MatchEntry.names (e : MatchEntry) (n : Nat) : Bool := e.state == .on && (namedSlots e.image).contains n

/-- Whether any ON entry names a slot number (R82). -/
def State.namedByOn (s : State) (n : Nat) : Bool := s.table.toList.any fun e => e.names n

/-- The role of a slot, derived when it is needed (R44). -/
def State.role (s : State) (n : SlotId) : Role :=
  if s.queue.inRun n.val then .queue
  else if s.table.toList.any (fun e => e.acts .captureSlot && e.names n.val) then .capture
  else if s.table.toList.any (fun e => e.acts .overlay && e.names n.val) then .overlay
  else .unbound

/-! ### Closing a record (R49) -/

/-- The four-way check of a closing access: UNIT-owned, HELD, equal sequence, PENDING (R49). -/
def Slot.closable (sl : Slot) (sequence : BitVec 16) : Bool :=
  sl.owner == .unit && sl.record == .held && sl.sequence == sequence && sl.outcome == .pending

/-- A fill, fault fill, write completion or expiry close with a capture link: the change is made if the check passes, and
otherwise nothing changes in the slot and DISCARDED_FILLS rises (R49, R70). -/
def State.closeRecord (s : State) (l : CaptureLink) (change : Slot → Slot) : State :=
  if (s.slot l.slot).closable l.sequence then s.setSlot l.slot (change (s.slot l.slot)) else s.count .discardedFills

/-- The closing access of an entry, if it holds a link (R65). -/
def State.closeLink (s : State) (l : Option CaptureLink) (change : Slot → Slot) : State :=
  match l with
  | none => s
  | some l => s.closeRecord l change

/-! ### Expiries of the limit timers (R135, R107, R167) -/

/-- The expiry of a FORWARDED entry: expiry close, NO_ANSWER, HELD, with the orphan mark if the request was sent and off
the send list if it was not (R135, R69). That no ticks are left in the HELD entry is the model's choice (log 13). -/
def State.expireResponse (s : State) (t : Tag) : State :=
  let e := s.track t
  let closed := s.closeLink e.link fun sl => { sl with outcome := .memFault }
  let held := closed.setTrack t
    { e with
      state := .held, link := none, orphan := e.sent, buffer := some { status := .noAnswer, beats := [] },
      timer := .unlimited }
  (held.setSendList (if e.sent then s.tracker.sendList else s.tracker.sendList.filter fun i => i.entry != t)).countAndRaise
    .noAnswers .noAnswer

/-- The expiry of an entry's response limit is taken where it is due: the entry is FORWARDED and its timer is at 0 (R135). -/
def State.settleResponse (s : State) (t : Tag) : State :=
  if (s.track t).state = .forwarded ∧ (s.track t).timer = .expiryDue then s.expireResponse t else s

/-- The stall ends without service: OVERLAY_UNAVAILABLE with no beats and no slot-served mark, a miss, STALL_EXPIRIES and
STALL_EXPIRED; steps 4 and 5 are next (R107). -/
def State.expireStall (s : State) (w : Work) (g : Governor) : State :=
  let answered := s.answerLocally w { status := .overlayUnavailable, beats := [] } false
  ((answered.miss g.index).countAndRaise .stallExpiries .stallExpired).afterAction w g

/-- The expiry of the stall limit is taken where it is due: a stall is in progress and its timer is at 0 (R107). -/
def State.settleStall (s : State) : State :=
  match s.stall with
  | some (w, g, _, .expiryDue) => s.expireStall w g
  | some (_, _, _, .running _) => s
  | some (_, _, _, .unlimited) => s
  | none => s

/-- Every expiry that is due is taken, those of the response limit from entry 0 upwards and then that of the stall limit.
R167 leaves the timers unordered among themselves (log 4). -/
def State.settleTimers (s : State) : State := ((List.finRange 16).foldl State.settleResponse s).settleStall

/-! ### Slot-served answers leaving (R34) -/

/-- The drain completes when no slot-served entry is held while the mode is DRAINING: the mode becomes BYPASS and
DRAIN_DONE is raised (R34). -/
def State.completeDrain (s : State) : State :=
  if s.mode = .draining ∧ s.anySlotServed = false then (s.setMode .bypass).raise .drainDone else s

end Sys2Proof.Machine
end

