-- ==== Sys2Proof/Machine/Link.lean ====
section
/-! DEFINITION. The Tool Link: execution, duplicates, faults, resync, NOP, and the TL_SDO pin (chapter 9). -/

namespace Sys2Proof.Machine

/-- The stored command's code and sequence (R147). -/
def State.storedPair (s : State) : Option (Byte × Byte) := s.toolLink.stored.map fun c => (c.code, c.seq)

/-- A period has ended: the outgoing frame of the next one is prepared, and TL_CS_N is high (R145, R148). -/
def State.setOutgoing (s : State) (f : AnswerFrame) : State :=
  { s with toolLink := { s.toolLink with outgoing := f, awaitsHigh := false } }

/-- A kind 5Ah frame (R154). -/
def responseFrame (code seq : Byte) (a : Answer) : AnswerFrame :=
  { kind := .response, code := code, seq := seq, status := a.status, payload := a.payload }

/-- The replay of a stored command: kind 5Bh with everything stored (R152). -/
def replayFrame (c : StoredCommand) : AnswerFrame :=
  { kind := .replayed, code := c.code, seq := c.seq, status := c.answer.status, payload := c.answer.payload }

/-- The stored response is replayed in the next period, and nothing else changes (R152). -/
def State.replay (s : State) : State :=
  match s.toolLink.stored with
  | none => s
  | some c => s.setOutgoing (replayFrame c)

/-- The end of an execution: the command becomes the stored command with its answer, and the answer is the outgoing frame
of the next period (R151). -/
def State.store (s : State) (code seq : Byte) (a : Answer) : State :=
  { s with toolLink :=
      { stored := some { code := code, seq := seq, answer := a }, outgoing := responseFrame code seq a, awaitsHigh := false } }

/-- TL_CS_N goes high, and nothing is taken (R147). -/
def State.deselect (s : State) : State := { s with toolLink := { s.toolLink with awaitsHigh := false } }

/-- TL_CS_N rises, which ends a period (R145). While PORST_N is low, and where the Link waits for TL_CS_N to go high, no
period is taken (R147); any other is taken by `take`. -/
def takePeriod (take : State → State) (s : State) : State :=
  if s.porstAsserted ∨ s.toolLink.awaitsHigh then s.deselect else take s

/-- A command frame with this code and sequence is taken (R149, checks 7 and 8): a repeat of the stored pair is replayed
(R152); any other is carried out by `run`, its answer stored (R151). -/
def linkExecute (code seq : Byte) (run : State → State × Answer) (s : State) : State :=
  takePeriod (fun s =>
    if s.storedPair = some (code, seq) then s.replay else (run s).1.store code seq (run s).2) s

/-- The frame that answers a link fault: code and sequence 00h, status LINK_FAULT, the reason in payload byte 0 (R150). -/
def faultFrame (reason : LinkReason) : AnswerFrame :=
  { kind := .response, code := 0, seq := 0, status := .linkFault, payload := payloadOf [linkReasonCode reason] }

/-- A link fault: the frame is discarded, answered, and LINK_FAULTS and LINK_FAULT are raised (R150). -/
def State.linkFault (s : State) (reason : LinkReason) : State :=
  (s.setOutgoing (faultFrame reason)).countAndRaise .linkFaults .linkFault

/-- Meaning of LINK_FAULT: the period's bits are checked as R149 gives; a faulty one is a link fault with its reason
(R150). A period that is not faulty is no link fault and is not this event (log 3). -/
def execLinkFault (period : Period) (s : State) : Host.Outcome State Fault Refusal :=
  .next (takePeriod (fun s =>
    match period.taken with
    | .fault reason => s.linkFault reason
    | .resync => s
    | .command _ _ _ => s) s)

/-- Meaning of RESYNC: stored command and stored response none, a frame of kind 00h prepared (R153). -/
def execResync (s : State) : Host.Outcome State Fault Refusal :=
  .next (takePeriod (fun s => { s with toolLink := ToolLink.porst }) s)

/-- Meaning of DUPLICATE: a frame that repeats the stored code and sequence is replayed (R152). One that does not is no
duplicate and is not this event (log 3). -/
def execDuplicate (code seq : Byte) (s : State) : Host.Outcome State Fault Refusal :=
  .next (takePeriod (fun s => if s.storedPair = some (code, seq) then s.replay else s) s)

/-- Meaning of UNKNOWN_COMMAND: answered UNKNOWN with an all-zero payload, and stored (R151, R177). A code that names a
command is not this event (log 3). -/
def execUnknownCommand (code seq : Byte) (s : State) : Host.Outcome State Fault Refusal :=
  .next (if namesCommand code then s else linkExecute code seq (fun s => (s, answer .unknown)) s)

/-- Meaning of NOP: answered OK by the Link itself, the stored command and response unchanged (R158). -/
def execNop (seq : Byte) (s : State) : Host.Outcome State Fault Refusal :=
  .next (takePeriod (fun s => s.setOutgoing (responseFrame 0x01#8 seq (answer .ok))) s)

/-- The level the Link drives on TL_SDO for bit `n` of a period: the outgoing frame's bits, then low; not driven while
TL_CS_N is high or PORST_N is low (R145, R147). Nor is it driven while the Link waits for TL_CS_N to go high: no period
runs then, and the level is the model's choice (log 27). -/
def State.sdo (s : State) (chipSelected : Bool) (n : Nat) : PinLevel :=
  if s.porstAsserted || !chipSelected || s.toolLink.awaitsHigh then .highZ
  else if (s.toolLink.outgoing.bytes.flatMap bitsOfByte).getD n false then .high else .low

end Sys2Proof.Machine
end

