-- ==== Sys2Proof/Machine/MatchTable.lean ====
section
/-! DEFINITION. The Match Table: matching and governance, and the five entry commands (chapter 1). -/

namespace Sys2Proof.Machine

/-! ### Matching (1.2) -/

/-- The kind test (R3). -/
def kindTest (m : EntryImage) (r : Request) : Bool :=
  match r.kind with
  | .read => m.access == 0x00#8 || m.access == 0x02#8
  | .write => m.access == 0x01#8 || m.access == 0x02#8

/-- The source test: the compared bits of the six-bit source ID agree with the source reference (R4). -/
def sourceTest (m : EntryImage) (r : Request) : Bool :=
  (BitVec.ofNat 8 r.source.val ^^^ m.sourceRef) &&& m.sourceMask &&& 0x3F#8 == 0x00#8

/-- A beat address agrees with an entry on every compared bit from 3 to 39 (R5). -/
def beatAgrees (m : EntryImage) (a : Address) : Bool :=
  (a ^^^ m.base) &&& m.careMask &&& 0xFFFFFFFFF8#40 == 0#40

/-- The beat addresses of a request (R5). -/
def beatAddresses (r : Request) : List Address :=
  (List.range r.beats).map fun i => r.address + BitVec.ofNat 40 (8 * i)

/-- The address test: at least one beat address agrees (R5). -/
def addressTest (m : EntryImage) (r : Request) : Bool := (beatAddresses r).any (beatAgrees m)

/-- A request matches an entry: ON, and the three tests pass (R6). -/
def MatchEntry.matchesRequest (e : MatchEntry) (r : Request) : Bool :=
  e.state == .on && kindTest e.image r && sourceTest e.image r && addressTest e.image r

/-- The governing entry of a request: the matching entry of lowest index (R6). -/
def State.governing (s : State) (r : Request) : Option (Fin 32) :=
  (List.finRange 32).find? fun i => (s.matchEntry i).matchesRequest r

/-! ### The checks of ENABLE_ENTRY (1.3) -/

/-- FIELD: every field the entry uses, other than its slot fields, is in range (R12). -/
def fieldsInRange (m : EntryImage) : Bool :=
  decide (m.access.toNat ≤ 2) && decide (m.sourceRef.toNat ≤ 63) && decide (m.sourceMask.toNat ≤ 63)
    && decide (m.trigger.toNat ≤ 2) && decide (m.oneShot.toNat ≤ 1)
    && (actionOf m.action != some .overlay
        || (decide (m.group.toNat ≤ 3) && decide (m.runLength.toNat ≤ 4) && decide (m.writePolicy.toNat ≤ 1)
            && decide (m.fallback.toNat ≤ 1)))

/-- SLOT_RANGE: every slot the entry would name exists (R13). -/
def slotsInRange (m : EntryImage) : Bool := (namedSlots m).all fun n => decide (n ≤ 63)

/-- The base-2 logarithm of a window size, for the five run lengths (R14). -/
def windowBits (m : EntryImage) : Nat := 6 + m.runLength.toNat

/-- WINDOW_SHAPE: bits n to 39 of the care mask set, bits 3 to n − 1 of care mask and base clear (R14). -/
def windowShaped (m : EntryImage) : Bool :=
  (List.range 40).all fun k =>
    decide (k < 3)
      || (if windowBits m ≤ k then m.careMask.getLsbD k else !m.careMask.getLsbD k && !m.base.getLsbD k)

/-- Run B is present and shares a slot with run A (R16). -/
def runsShare (m : EntryImage) : Bool :=
  match runBFirst m with
  | none => false
  | some first => (runSlots m.runA.toNat (linesOf m.runLength)).any
      fun n => (runSlots first (linesOf m.runLength)).contains n

/-- SLOT_CONFLICT of ENABLE_ENTRY for entry `i` (R16). -/
def State.slotConflict (s : State) (i : Fin 32) (m : EntryImage) : Bool :=
  (namedSlots m).any (fun n => (List.finRange 32).any fun j => j != i && (s.matchEntry j).names n)
    || (namedSlots m).any (fun n => s.queue.inRun n)
    || (actionOf m.action == some .overlay && runsShare m)

/-- The first check of ENABLE_ENTRY that fails, in the order of R11, or none if all pass. -/
def State.enableFailure (s : State) (i : Fin 32) : Option Reason :=
  let m := (s.matchEntry i).image
  if actionOf m.action = none then some .action
  else if fieldsInRange m = false then some .field
  else if slotsInRange m = false then some .slotRange
  else if actionOf m.action = some .overlay ∧ windowShaped m = false then some .windowShape
  else if actionOf m.action = some .captureQueue ∧ s.queue.count = 0 then some .noQueue
  else if s.slotConflict i m then some .slotConflict
  else none

/-! ### The entry commands -/

/-- Every entry command first checks its index (R8). -/
def withEntry (index : Byte) (run : Fin 32 → State → State × Answer) (s : State) : State × Answer :=
  if h : index.toNat < 32 then run ⟨index.toNat, h⟩ s else (s, badArg .index)

/-- WRITE_ENTRY on entry `i` (R9). -/
def writeEntry (image : EntryImage) (i : Fin 32) (s : State) : State × Answer :=
  match (s.matchEntry i).state with
  | .off => (s.setMatch i { state := .off, image := image, hits := 0, misses := 0 }, answer .ok)
  | .on => (s, answer .busy)

/-- READ_ENTRY on entry `i` (R10). -/
def readEntry (i : Fin 32) (s : State) : State × Answer :=
  (s, answerWith .ok (entryBytes (BitVec.ofNat 8 i.val) (s.matchEntry i)))

/-- Entry `i` turns ON, its counts kept (R11). A request under classification that it governs was governed before it was
enabled, and will not retire it (R18). -/
def State.turnOn (s : State) (i : Fin 32) : State :=
  (s.setMatch i { s.matchEntry i with state := .on }).mapGovernor
    fun g => if g.index = i then { g with renewed := true } else g

/-- ENABLE_ENTRY on entry `i` (R11). -/
def enableEntry (i : Fin 32) (s : State) : State × Answer :=
  match (s.matchEntry i).state with
  | .on => (s, answer .ok)
  | .off =>
    match s.enableFailure i with
    | some reason => (s, badArg reason)
    | none => (s.turnOn i, answer .ok)

/-- Whether the Classifier is stalled on a request that entry `i` governs (R17). -/
def State.stalledBy (s : State) (i : Fin 32) : Bool :=
  match s.stall with
  | none => false
  | some (_, g, _, _) => g.index == i

/-- DISABLE_ENTRY on entry `i` (R17). -/
def disableEntry (i : Fin 32) (s : State) : State × Answer :=
  match (s.matchEntry i).state with
  | .off => (s, answer .ok)
  | .on => if s.stalledBy i then (s, answer .busy) else (s.turnOff i, answer .ok)

/-- CLEAR_ENTRY_COUNTS on entry `i` (R21). -/
def clearEntryCounts (i : Fin 32) (s : State) : State × Answer :=
  (s.setMatch i { s.matchEntry i with hits := 0, misses := 0 }, answer .ok)

/-- Meaning of WRITE_ENTRY, code 10h (R9). -/
def execWriteEntry (seq index : Byte) (image : EntryImage) (s : State) : Host.Outcome State Fault Refusal :=
  .next (linkExecute 0x10#8 seq (withEntry index (writeEntry image)) s)

/-- Meaning of READ_ENTRY, code 11h (R10). -/
def execReadEntry (seq index : Byte) (s : State) : Host.Outcome State Fault Refusal :=
  .next (linkExecute 0x11#8 seq (withEntry index readEntry) s)

/-- Meaning of ENABLE_ENTRY, code 12h (R11). -/
def execEnableEntry (seq index : Byte) (s : State) : Host.Outcome State Fault Refusal :=
  .next (linkExecute 0x12#8 seq (withEntry index enableEntry) s)

/-- Meaning of DISABLE_ENTRY, code 13h (R17). -/
def execDisableEntry (seq index : Byte) (s : State) : Host.Outcome State Fault Refusal :=
  .next (linkExecute 0x13#8 seq (withEntry index disableEntry) s)

/-- Meaning of CLEAR_ENTRY_COUNTS, code 14h (R21). -/
def execClearEntryCounts (seq index : Byte) (s : State) : Host.Outcome State Fault Refusal :=
  .next (linkExecute 0x14#8 seq (withEntry index clearEntryCounts) s)

end Sys2Proof.Machine
end

