-- ==== Sys2Proof/Machine/SlotStore.lean ====
section
/-! DEFINITION. The Slot Store: record creation, the overlay accesses, and the five slot commands (chapters 3 and 4). -/

namespace Sys2Proof.Machine

/-! ### Record creation (R47, R61, R62, R63) -/

/-- The slot after a record creation: the whole descriptor and the whole data area. In a capture slot new is set, and overrun is
set exactly if new was set before; a queue record keeps both clear (R47, R61 to R63, R85). -/
def newRecord (s : State) (r : Request) (capture : Bool) (old : Slot) : Slot :=
  { owner := old.owner
    record := .held
    new := capture
    overrun := capture && old.new
    sequence := s.captureSeq
    timeStamp := s.timeBase.value
    lineAddress := lineAddress r
    firstBeat := firstBeat r
    beats := r.beats
    enables := recordEnables r
    kind := r.kind
    source := r.source
    outcome := .pending
    data :=
      match r.kind with
      | .read => Vector.replicate 64 0
      | .write => mergeLine (Vector.replicate 64 0) (writeByte r) }

/-- The record creation access in a UNIT-owned slot: the record takes the capture sequence counter's value, which advances,
and the OVERRUN cause is raised where a capture-slot record finds new set (R47, R57, R63). -/
def State.createRecord (s : State) (n : SlotId) (r : Request) (capture : Bool) : State :=
  let made := { s.setSlot n (newRecord s r capture (s.slot n)) with captureSeq := s.captureSeq + 1 }
  if capture && (s.slot n).new then made.raise .overrun else made

/-- The capture link of the record just made is placed in the request's Tracker entry (R47, R60). -/
def State.placeLink (s : State) (t : Tag) (l : CaptureLink) : State := s.setTrack t { s.track t with link := some l }

/-! ### Overlay accesses (R48) -/

/-- An OVERLAY request is served from a UNIT-owned slot: a read has its beats copied into the response (R98), a write
has its enabled bytes written into the data area (R99); the answer is DONE with the slot-served mark. -/
def State.serve (s : State) (w : Work) (n : SlotId) : State :=
  match w.request.kind with
  | .read =>
    s.answerLocally w
      { status := .done, beats := lineBeats (s.slot n).data (firstBeat w.request).toNat w.request.beats } true
  | .write =>
    (s.setSlot n { s.slot n with data := mergeLine (s.slot n).data (writeByte w.request) }).answerLocally w
      { status := .done, beats := [] } true

/-- A service that ends the stall on slot `n` (R104, R106). A timer that a tick has brought to 0 expires first, and the
service then meets no stall (R167, R108). -/
def State.serveStalled (s : State) (w : Work) (g : Governor) (n : SlotId) (timer : LimitTimer) : State :=
  if timer = .expiryDue then s.expireStall w g else (s.serve w n).afterAction w g

/-! ### The slot commands -/

/-- Every slot command first checks its slot number (R51). -/
def withSlot (slot : Byte) (run : SlotId → State → State × Answer) (s : State) : State × Answer :=
  if h : slot.toNat < 64 then run ⟨slot.toNat, h⟩ s else (s, badArg .slotRange)

/-- TAKE_SLOT on slot `n` (R52). -/
def takeSlot (n : SlotId) (s : State) : State × Answer :=
  if s.role n = .queue then (s, answer .badState)
  else (s.setSlot n { s.slot n with owner := .tool }, answer .ok)

/-- RELEASE_SLOT on slot `n` (R53): the release of the stalled slot serves the stalled request in the same access and ends
the stall (R54, R104). -/
def releaseSlot (n : SlotId) (s : State) : State × Answer :=
  match (s.slot n).owner with
  | .unit => (s, answer .ok)
  | .tool =>
    let released := s.setSlot n { s.slot n with owner := .unit }
    match s.stall with
    | none => (released, answer .ok)
    | some (w, g, slot, timer) =>
      if slot = n then (released.serveStalled w g n timer, answer .ok) else (released, answer .ok)

/-- The extent check of WRITE_SLOT: offset 0 to 63, length 1 to 64, offset plus length at most 64 (R55). -/
def extentValid (offset length : Byte) : Bool :=
  decide (offset.toNat ≤ 63) && decide (1 ≤ length.toNat) && decide (length.toNat ≤ 64)
    && decide (offset.toNat + length.toNat ≤ 64)

/-- WRITE_SLOT on slot `n` (R55). -/
def writeSlot (offset length : Byte) (data : Line) (n : SlotId) (s : State) : State × Answer :=
  if extentValid offset length = false then (s, badArg .extent)
  else
    match (s.slot n).owner with
    | .unit => (s, answer .notOwner)
    | .tool =>
      (s.setSlot n
        { s.slot n with data := mergeLine (s.slot n).data (extentByte offset.toNat length.toNat data) }, answer .ok)

/-- READ_SLOT on slot `n` (R56). -/
def readSlot (n : SlotId) (s : State) : State × Answer :=
  (s, answerWith .ok (snapshotBytes n (s.role n) (s.slot n)))

/-- The ACK_SLOT payload: slot, and the record's sequence, state and overrun flag as found (R73, 11.8). -/
def ackBytes (n : SlotId) (sl : Slot) : List Byte :=
  [BitVec.ofNat 8 n.val] ++ leBytes 2 sl.sequence
    ++ [if sl.record.isHeld then 0x01#8 else 0x00#8, if sl.overrun then 0x01#8 else 0x00#8]

/-- ACK_SLOT on slot `n` (R73, R74). -/
def ackSlot (sequence : HalfWord) (n : SlotId) (s : State) : State × Answer :=
  if (s.slot n).record = .held ∧ (s.slot n).sequence = sequence then
    (s.setSlot n { s.slot n with new := false, overrun := false }, answerWith .ok (ackBytes n (s.slot n)))
  else (s, answerWith .stale (ackBytes n (s.slot n)))

/-- Meaning of TAKE_SLOT, code 20h (R52). -/
def execTakeSlot (seq slot : Byte) (s : State) : Host.Outcome State Fault Refusal :=
  .next (linkExecute 0x20#8 seq (withSlot slot takeSlot) s)

/-- Meaning of RELEASE_SLOT, code 21h (R53). -/
def execReleaseSlot (seq slot : Byte) (s : State) : Host.Outcome State Fault Refusal :=
  .next (linkExecute 0x21#8 seq (withSlot slot releaseSlot) s)

/-- Meaning of WRITE_SLOT, code 22h (R55). -/
def execWriteSlot (seq slot offset length : Byte) (data : Line) (s : State) : Host.Outcome State Fault Refusal :=
  .next (linkExecute 0x22#8 seq (withSlot slot (writeSlot offset length data)) s)

/-- Meaning of READ_SLOT, code 23h (R56). -/
def execReadSlot (seq slot : Byte) (s : State) : Host.Outcome State Fault Refusal :=
  .next (linkExecute 0x23#8 seq (withSlot slot readSlot) s)

/-- Meaning of ACK_SLOT, code 28h (R73). -/
def execAckSlot (seq slot : Byte) (sequence : HalfWord) (s : State) : Host.Outcome State Fault Refusal :=
  .next (linkExecute 0x28#8 seq (withSlot slot (ackSlot sequence)) s)

end Sys2Proof.Machine
end

