-- ==== Sys2Proof/Machine/Session.lean ====
section
/-! DEFINITION. The Session Controller: triggers, notices and the four session commands (chapter 7). -/

namespace Sys2Proof.Machine

/-- The session enters FROZEN and the FROZEN cause is raised (R120). -/
def State.freeze (s : State) (remaining : BitVec 8) : State :=
  (s.setSession { state := .frozen, remaining := remaining }).raise .frozen

/-- A record is due: the session is RUNNING or STOPPING (R114). -/
def State.recordDue (s : State) : Bool := s.session.state == .running || s.session.state == .stopping

/-- A START trigger taken by the Session Controller (R115). -/
def State.takeStart (s : State) : State :=
  match s.session.state with
  | .armed => s.setSession { s.session with state := .running }
  | .idle => s
  | .running => s
  | .stopping => s
  | .frozen => s

/-- A STOP trigger taken by the Session Controller (R116). That one taken in RUNNING after a SESSION_RUN from FROZEN acts,
unless it is the trigger that fell together with that command, is the model's reading of R125 (log 26). -/
def State.takeStop (s : State) : State :=
  match s.session.state with
  | .running =>
    if s.session.remaining = 0#8 then s.freeze 0 else s.setSession { s.session with state := .stopping }
  | .idle => s
  | .armed => s
  | .stopping => s
  | .frozen => s

/-- A notice of a record made, taken by the Session Controller (R118). A remaining count of 0 is not found in STOPPING. -/
def State.takeNotice (s : State) : State :=
  match s.session.state with
  | .stopping =>
    if s.session.remaining.toNat ≤ 1 then s.freeze 0
    else s.setSession { s.session with remaining := s.session.remaining - 1#8 }
  | .idle => s
  | .armed => s
  | .running => s
  | .frozen => s

/-- Meaning of START_TRIGGER: step 2 of the Classifier's work (R25). In ACTIVE the trigger is signalled; a step that finds
another mode signals none (R26); step 3 is next, and reads the mode as it then stands: that it acts where a SET_MODE back to
ACTIVE comes before it is the model's choice (log 29). With no such step due, nothing changes (log 3). -/
def execStartTrigger (s : State) : Host.Outcome State Fault Refusal :=
  .next (match s.work with
    | some { request := r, entry := t, stage := .start g } =>
      let s := s.setWork (some { request := r, entry := t, stage := .action g })
      if s.mode = .active then s.takeStart else s
    | _ => s)

/-- Meaning of STOP_TRIGGER: step 4 of the Classifier's work (R25). In ACTIVE the trigger is signalled; a step that finds
another mode signals none (R26); step 5 is next for a one-shot entry. A trigger that fell together with the SESSION_ARM or
SESSION_RUN that took the session out of FROZEN is ignored (R125, last row; log 26). -/
def execStopTrigger (s : State) : Host.Outcome State Fault Refusal :=
  .next (match s.work with
    | some { request := r, entry := t, stage := .stop g } =>
      let s := s.afterStop { request := r, entry := t, stage := .stop g } g
      if s.mode = .active ∧ g.stopIgnored = false then s.takeStop else s
    | _ => s)

/-- Meaning of RECORD_NOTICE: the Session Controller takes the notice (R118), and then the request of the record is
forwarded, last of the capture's work (R60, R85; log 6). The row belongs to a record already made and reads no mode: after
a SET_MODE out of ACTIVE the notice is given and the request forwarded with its link all the same (log 22). -/
def execRecordNotice (s : State) : Host.Outcome State Fault Refusal :=
  .next (match s.work with
    | some { request := r, entry := t, stage := .notice g } =>
      s.takeNotice.forwardAndGoOn { request := r, entry := t, stage := .notice g } g
    | _ => s)

/-- The governing entry of a request whose STOP trigger is next, with the trigger ignored (R125). -/
def Stage.ignoreStop : Stage → Stage
  | .stop g => .stop { g with stopIgnored := true }
  | .lookup => .lookup
  | .start g => .start g
  | .action g => .action g
  | .append g note => .append g note
  | .notice g => .notice g
  | .stalled g slot timer => .stalled g slot timer
  | .retire g => .retire g

/-- The session leaves FROZEN by SESSION_ARM or SESSION_RUN. The STOP trigger that falls together with the command, being
the Classifier's next step, is ignored, by the last row of R125 (log 26). -/
def State.leaveFrozen (s : State) (x : Session) : State :=
  (s.setSession x).setWork (s.work.map fun w => { w with stage := w.stage.ignoreStop })

/-- SESSION_ARM (R121). -/
def sessionArm (count : Byte) (s : State) : State × Answer :=
  match s.session.state with
  | .idle => (s.setSession { state := .armed, remaining := count }, answer .ok)
  | .frozen => (s.leaveFrozen { state := .armed, remaining := count }, answer .ok)
  | .armed => (s, answer .badState)
  | .running => (s, answer .badState)
  | .stopping => (s, answer .badState)

/-- SESSION_RUN (R122). -/
def sessionRun (count : Byte) (s : State) : State × Answer :=
  match s.session.state with
  | .idle => (s.setSession { state := .running, remaining := count }, answer .ok)
  | .armed => (s.setSession { state := .running, remaining := count }, answer .ok)
  | .frozen => (s.leaveFrozen { state := .running, remaining := count }, answer .ok)
  | .running => (s, answer .badState)
  | .stopping => (s, answer .badState)

/-- SESSION_HALT (R123). -/
def sessionHalt (s : State) : State × Answer :=
  match s.session.state with
  | .armed => (s.freeze s.session.remaining, answer .ok)
  | .running => (s.freeze s.session.remaining, answer .ok)
  | .stopping => (s.freeze s.session.remaining, answer .ok)
  | .frozen => (s, answer .ok)
  | .idle => (s, answer .badState)

/-- What SESSION_CLEAR does in IDLE and FROZEN: the run is emptied and the ring state reset (R93), the history emptied (R79),
the session IDLE with remaining count 0 (R124). -/
def State.clearSession (s : State) : State :=
  { s with
    slots := emptyRun s.queue s.slots
    queue := { s.queue with oldest := 0, occupancy := 0 }
    history := []
    session := { state := .idle, remaining := 0 } }

/-- SESSION_CLEAR (R124). -/
def sessionClear (s : State) : State × Answer :=
  match s.session.state with
  | .idle => (s.clearSession, answer .ok)
  | .frozen => (s.clearSession, answer .ok)
  | .armed => (s, answer .badState)
  | .running => (s, answer .badState)
  | .stopping => (s, answer .badState)

/-- Meaning of SESSION_ARM, code 40h (R121). -/
def execSessionArm (seq count : Byte) (s : State) : Host.Outcome State Fault Refusal :=
  .next (linkExecute 0x40#8 seq (sessionArm count) s)

/-- Meaning of SESSION_RUN, code 41h (R122). -/
def execSessionRun (seq count : Byte) (s : State) : Host.Outcome State Fault Refusal :=
  .next (linkExecute 0x41#8 seq (sessionRun count) s)

/-- Meaning of SESSION_HALT, code 42h (R123). -/
def execSessionHalt (seq : Byte) (s : State) : Host.Outcome State Fault Refusal :=
  .next (linkExecute 0x42#8 seq sessionHalt s)

/-- Meaning of SESSION_CLEAR, code 43h (R124). -/
def execSessionClear (seq : Byte) (s : State) : Host.Outcome State Fault Refusal :=
  .next (linkExecute 0x43#8 seq sessionClear s)

end Sys2Proof.Machine
end

