-- ==== Sys2Proof/Machine/Classifier.lean ====
section
/-! DEFINITION. The Classifier: taking a request, the WATCH and capture actions, the history note, retirement, and the unit
modes (chapters 2, 4 and 5). -/

namespace Sys2Proof.Machine

/-- Step 1 of R25 and what is next: the hit count of the governing entry rises (R19), then step 2 if the entry's trigger
role is START, else step 3. -/
def State.govern (s : State) (w : Work) (i : Fin 32) : State :=
  let g : Governor := { index := i, image := (s.matchEntry i).image, renewed := false, stopIgnored := false }
  (s.hit i).setWork (some { w with stage := if isStart g.image then .start g else .action g })

/-- Meaning of CLASSIFY: the mode check, the lookup and the hit count (R24). Outside ACTIVE, and with no governing entry,
the request is forwarded at once and the work is done. -/
def execClassify (s : State) : Host.Outcome State Fault Refusal :=
  .next (match s.work with
    | some { request := r, entry := t, stage := .lookup } =>
      let w : Work := { request := r, entry := t, stage := .lookup }
      match s.mode with
      | .bypass => (s.forward w).setWork none
      | .draining => (s.forward w).setWork none
      | .active =>
        match s.governing r with
        | none => (s.forward w).setWork none
        | some i => s.govern w i
    | _ => s)

/-- Meaning of WATCH_ACTION: step 3 for a WATCH entry forwards the request (R27), in any mode (R26). -/
def execWatchAction (s : State) : Host.Outcome State Fault Refusal :=
  .next (match s.work with
    | some { request := r, entry := t, stage := .action g } =>
      if actionOf g.image.action = some .watch then
        s.forwardAndGoOn { request := r, entry := t, stage := .action g } g
      else s
    | _ => s)

/-- The capture slot of an entry; ENABLE_ENTRY keeps the byte within 0 to 63 (R13). -/
def captureSlotOf (m : EntryImage) : SlotId := Fin.ofNat 64 m.captureSlot.toNat

/-- Step 3 for a CAPTURE_SLOT entry in ACTIVE (R28, R60): with no record due the request is forwarded; with one due and the
slot TOOL-owned a miss is counted and the request forwarded; otherwise the record is made, and its note is next. The slot is
the one the lookup found (R7): where the entry was disabled since, and CONFIG_QUEUE took the slot into the run or another ON
entry took it, the record is made there all the same, against R81, R92 and R97, which is the model's choice (log 25). -/
def State.captureToSlot (s : State) (w : Work) (g : Governor) : State :=
  let n := captureSlotOf g.image
  if s.recordDue = false then s.forwardAndGoOn w g
  else
    match (s.slot n).owner with
    | .tool => (s.miss g.index).forwardAndGoOn w g
    | .unit =>
      (s.createRecord n w.request true).setWork
        (some { w with stage := .append g { slot := n, sequence := s.captureSeq } })

/-- Meaning of CAPTURE_SLOT_ACTION: step 3 for a CAPTURE_SLOT entry (R28); a step that finds another mode than ACTIVE
forwards the request plainly (R26). -/
def execCaptureSlotAction (s : State) : Host.Outcome State Fault Refusal :=
  .next (match s.work with
    | some { request := r, entry := t, stage := .action g } =>
      let w : Work := { request := r, entry := t, stage := .action g }
      if actionOf g.image.action = some .captureSlot then
        if s.mode = .active then s.captureToSlot w g else s.forwardAndGoOn w g
      else s
    | _ => s)

/-- The Arrival History with a note appended: a full list drops its oldest note, and HISTORY_LOSSES and HISTORY_LOSS are
raised (R76, R77). -/
def State.appendNote (s : State) (note : Note) : State :=
  if s.history.length < Config.historyCapacity then { s with history := s.history ++ [note] }
  else ({ s with history := s.history.drop 1 ++ [note] } : State).countAndRaise .historyLosses .historyLoss

/-- Meaning of HISTORY_APPEND: the note of the record just made in a capture slot is appended, then its link is placed in the
Tracker entry, and the notice to the Session Controller is next (R60, R76; log 6). The row belongs to a record already made
and reads neither the mode nor the session: after a SET_MODE out of ACTIVE the note and the link are given all the same
(log 22), and after a SESSION_HALT and a SESSION_CLEAR the note joins the emptied list (log 23). -/
def execHistoryAppend (s : State) : Host.Outcome State Fault Refusal :=
  .next (match s.work with
    | some { request := r, entry := t, stage := .append g note } =>
      ((s.appendNote note).placeLink t { slot := note.slot, sequence := note.sequence }).setWork
        (some { request := r, entry := t, stage := .notice g })
    | _ => s)

/-- Meaning of ONE_SHOT_RETIRE: step 5, the governing entry turns OFF and the work is done (R18, R25). An entry enabled
again since the lookup stays ON: the request is not the first it governs after that (R18). -/
def execOneShotRetire (s : State) : Host.Outcome State Fault Refusal :=
  .next (match s.work with
    | some { request := _, entry := _, stage := .retire g } => (s.retire g).setWork none
    | _ => s)

/-! ### The Capture Queue's side (5.3) -/

/-- The position the next record is written into while the queue has room (R81). -/
def Queue.next (q : Queue) : Nat := (q.oldest + q.occupancy) % q.count

/-- The position after the oldest, around the ring (R81). -/
def Queue.advance (q : Queue) : Nat := (q.oldest + 1) % q.count

/-- The Tracker entry takes the link of a queue record, and the notice to the Session Controller is next (R85, steps 3
and 4). -/
def State.linkQueueRecord (s : State) (w : Work) (g : Governor) (n : SlotId) (sequence : BitVec 16) : State :=
  (s.placeLink w.entry { slot := n, sequence := sequence }).setWork (some { w with stage := .notice g })

/-- A capture offered to a queue with room is recorded at the next position; WATERMARK is raised where the occupancy rises
to the watermark (R85, R86). -/
def State.enqueue (s : State) (w : Work) (g : Governor) : State :=
  let n := s.queue.slotAt s.queue.next
  let made := (s.createRecord n w.request false).setQueue { s.queue with occupancy := s.queue.occupancy + 1 }
  let marked := if s.queue.occupancy + 1 = s.queue.watermark then made.raise .watermark else made
  marked.linkQueueRecord w g n s.captureSeq

/-- A capture offered to a full RING queue replaces the oldest record (R88). -/
def State.replaceOldest (s : State) (w : Work) (g : Governor) : State :=
  let n := s.queue.slotAt s.queue.oldest
  let made := (s.createRecord n w.request false).setQueue { s.queue with oldest := s.queue.advance }
  (made.countAndRaise .queueOverwrites .queueLoss).linkQueueRecord w g n s.captureSeq

/-- A capture offered to a full STOP_WHEN_FULL queue is dropped, and the request is forwarded with no link (R87). -/
def State.dropCapture (s : State) (w : Work) (g : Governor) : State :=
  (s.countAndRaise .queueDrops .queueLoss).forwardAndGoOn w g

/-- The owner the creation access into the queue finds (R45): the slot at the next position while the queue has room, and
otherwise the slot at the oldest. A queue slot is UNIT-owned (R92). -/
def State.queueSlotOwner (s : State) : Owner :=
  if s.queue.occupancy < s.queue.count then (s.slot (s.queue.slotAt s.queue.next)).owner
  else (s.slot (s.queue.slotAt s.queue.oldest)).owner

/-- A due capture offered to the queue: recorded, dropped, or recorded over the oldest (R85, R87, R88). -/
def State.offerToQueue (s : State) (w : Work) (g : Governor) : State :=
  if s.queue.occupancy < s.queue.count then s.enqueue w g
  else
    match s.queue.mode with
    | .stopWhenFull => s.dropCapture w g
    | .ring => s.replaceOldest w g

/-- Step 3 for a CAPTURE_QUEUE entry in ACTIVE (R29). An offer to an unconfigured queue, which R84 says does not arise,
makes no record, is counted nowhere, and the request is forwarded: the model's choice for an entry disabled after its lookup
(log 24). A creation that finds its slot TOOL-owned would make no record (R46), which no queue slot is (R92; log 14). -/
def State.captureToQueue (s : State) (w : Work) (g : Governor) : State :=
  if s.recordDue = false ∨ s.queue.count = 0 then s.forwardAndGoOn w g
  else
    match s.queueSlotOwner with
    | .unit => s.offerToQueue w g
    | .tool => s.forwardAndGoOn w g

/-- Meaning of CAPTURE_QUEUE_ACTION: step 3 for a CAPTURE_QUEUE entry (R29); a step that finds another mode than ACTIVE
forwards the request plainly (R26). -/
def execCaptureQueueAction (s : State) : Host.Outcome State Fault Refusal :=
  .next (match s.work with
    | some { request := r, entry := t, stage := .action g } =>
      let w : Work := { request := r, entry := t, stage := .action g }
      if actionOf g.image.action = some .captureQueue then
        if s.mode = .active then s.captureToQueue w g else s.forwardAndGoOn w g
      else s
    | _ => s)

/-! ### SET_MODE (R33, R38) -/

/-- A stall ended by the mode leaving ACTIVE: the request is forwarded, step 4 is not taken and step 5 is (R37, R38). A
timer that a tick has brought to 0 expires first, and the mode then meets no stall (R167, R38). The mode has left ACTIVE when
step 4 of that request comes, and its STOP trigger is not signalled (R26), which is the model's choice (log 8). -/
def State.endStallByMode (s : State) : State :=
  match s.stall with
  | none => s
  | some (w, g, _, timer) => if timer = .expiryDue then s.expireStall w g else (s.forward w).afterStop w g

/-- SET_MODE towards ACTIVE (R33). -/
def modeActive (s : State) : State × Answer := (s.setMode .active, answer .ok)

/-- SET_MODE towards BYPASS (R33, R38). -/
def modeBypass (s : State) : State × Answer :=
  match s.mode with
  | .bypass => (s, answer .ok)
  | .draining => (s, answer .accepted)
  | .active =>
    if s.anySlotServed then ((s.setMode .draining).endStallByMode, answer .accepted)
    else ((s.setMode .bypass).endStallByMode, answer .ok)

/-- SET_MODE: any other argument than ACTIVE or BYPASS is refused with FIELD (R33, R178). -/
def setMode (mode : Byte) (s : State) : State × Answer :=
  match mode.toNat with
  | 0 => modeBypass s
  | 1 => modeActive s
  | _ => (s, badArg .field)

/-- Meaning of SET_MODE, code 18h (R33). -/
def execSetMode (seq mode : Byte) (s : State) : Host.Outcome State Fault Refusal :=
  .next (linkExecute 0x18#8 seq (setMode mode) s)

end Sys2Proof.Machine
end

