-- ==== Sys2Proof/Machine/Overlay.lean ====
section
/-! DEFINITION. Overlay windows and banks: the serving slot, the overlay action, the stall's expiry, and SWITCH_BANK
(chapter 6). -/

namespace Sys2Proof.Machine

/-! ### The serving slot (R95, R97) -/

/-- The line index of a request in its entry's window: the request's line, counted in lines, modulo the run length (R95). -/
def lineIndex (m : EntryImage) (r : Request) : Nat := (r.address.toNat / 64) % linesOf m.runLength

/-- The overlay group of an entry; ENABLE_ENTRY keeps the byte within 0 to 3 (R12). -/
def groupOf (m : EntryImage) : Fin 4 := Fin.ofNat 4 m.group.toNat

/-- The first slot of the run in force: run A if run B is ABSENT or the selector holds A, and otherwise run B (R97). -/
def runFirst (m : EntryImage) (bank : Bank) : Nat :=
  match runBFirst m, bank with
  | none, _ => m.runA.toNat
  | some _, .a => m.runA.toNat
  | some first, .b => first

/-- The slot that serves a request of an OVERLAY entry under a bank selector (R97). -/
def servingSlotOf (m : EntryImage) (bank : Bank) (r : Request) : SlotId :=
  Fin.ofNat 64 (runFirst m bank + lineIndex m r)

/-- The slot that serves a request, from the selector of its entry's group as it stands (R97). -/
def State.servingSlot (s : State) (m : EntryImage) (r : Request) : SlotId :=
  servingSlotOf m s.banks[groupOf m] r

/-! ### The overlay action (R30, R98 to R102) -/

/-- A request served from a UNIT-owned slot, and what is next (R98, R99). -/
def State.serveAndGoOn (s : State) (w : Work) (g : Governor) (n : SlotId) : State := (s.serve w n).afterAction w g

/-- A stall begins: slot and stall limit timer are kept with the work, whose governing entry is known (R102, R103). -/
def State.beginStall (s : State) (w : Work) (g : Governor) (n : SlotId) : State :=
  s.setWork (some { w with stage := .stalled g n (loadTimer s.tracker.stallLimit) })

/-- The fallback of a request whose serving slot is TOOL-owned: the stall begins, or a miss is counted and the request
forwarded (R101, R102). -/
def State.fallBack (s : State) (w : Work) (g : Governor) (n : SlotId) : State :=
  if isStall g.image then s.beginStall w g n else (s.miss g.index).forwardAndGoOn w g

/-- Step 3 for an OVERLAY entry in ACTIVE, by the table of R30. The window is the one the lookup found (R7): where the entry
was disabled since, and another ON entry or the queue run took the serving slot, the overlay access is made there all the
same, against R97, which is the model's choice (log 25). -/
def State.overlay (s : State) (w : Work) (g : Governor) : State :=
  if w.request.kind = .write ∧ isForward g.image then s.forwardAndGoOn w g
  else
    match (s.slot (s.servingSlot g.image w.request)).owner with
    | .unit => s.serveAndGoOn w g (s.servingSlot g.image w.request)
    | .tool => s.fallBack w g (s.servingSlot g.image w.request)

/-- Meaning of OVERLAY_ACTION: step 3 for an OVERLAY entry (R30); a step that finds another mode than ACTIVE forwards the
request plainly (R26). -/
def execOverlayAction (s : State) : Host.Outcome State Fault Refusal :=
  .next (match s.work with
    | some { request := r, entry := t, stage := .action g } =>
      let w : Work := { request := r, entry := t, stage := .action g }
      if actionOf g.image.action = some .overlay then
        if s.mode = .active then s.overlay w g else s.forwardAndGoOn w g
      else s
    | _ => s)

/-! ### Endings of a stall (R106, R107) -/

/-- Meaning of STALL_LIMIT_EXPIRY: a stall whose timer has run down ends (R107). With no stall, or ticks left, it is not
this event (log 3, log 4). -/
def execStallLimitExpiry (s : State) : Host.Outcome State Fault Refusal :=
  .next s.settleStall

/-- A stalled request meets the slot the switched selector gives: it is served if that slot is UNIT-owned, and otherwise
the stall goes on against that slot with its timer as it stands (R106). -/
def State.rederive (s : State) (w : Work) (g : Governor) (timer : LimitTimer) : State :=
  match (s.slot (s.servingSlot g.image w.request)).owner with
  | .unit => s.serveStalled w g (s.servingSlot g.image w.request) timer
  | .tool => s.setWork (some { w with stage := .stalled g (s.servingSlot g.image w.request) timer })

/-- The stall, if it is of this group, is re-derived (R105, R106). -/
def State.rederiveGroup (s : State) (group : Fin 4) : State :=
  match s.stall with
  | none => s
  | some (w, g, _, timer) => if groupOf g.image = group then s.rederive w g timer else s

/-- SWITCH_BANK on a group and bank that exist (R105). -/
def setBank (group : Fin 4) (bank : Bank) (s : State) : State × Answer :=
  if s.banks[group] = bank then (s, answer .ok)
  else (({ s with banks := s.banks.set group bank } : State).rederiveGroup group, answer .ok)

/-- SWITCH_BANK: a group above 3 or a byte that is no bank is refused with FIELD (R105, R178). -/
def switchBank (group bank : Byte) (s : State) : State × Answer :=
  if h : group.toNat < 4 then
    match bankOf bank with
    | some named => setBank ⟨group.toNat, h⟩ named s
    | none => (s, badArg .field)
  else (s, badArg .field)

/-- Meaning of SWITCH_BANK, code 38h (R105). -/
def execSwitchBank (seq group bank : Byte) (s : State) : Host.Outcome State Fault Refusal :=
  .next (linkExecute 0x38#8 seq (switchBank group bank) s)

end Sys2Proof.Machine
end

