-- ==== Sys2Proof/Machine/Queue.lean ====
section
/-! DEFINITION. CONFIG_QUEUE, POP_QUEUE and READ_HISTORY (chapters 4 and 5). -/

namespace Sys2Proof.Machine

/-! ### CONFIG_QUEUE (R82 to R84) -/

/-- FIELD of CONFIG_QUEUE: count 2 to 32, a mode of 11.4, watermark 1 to count (R82). -/
def queueFieldsInRange (count mode watermark : Byte) : Bool :=
  decide (2 ≤ count.toNat) && decide (count.toNat ≤ Config.queueMax) && (queueModeOf mode).isSome
    && decide (1 ≤ watermark.toNat) && decide (watermark.toNat ≤ count.toNat)

/-- The owner of slot number `n` of a run whose slots exist (R82). -/
def State.ownerAt (s : State) (n : Nat) : Owner := (s.slot (Fin.ofNat 64 n)).owner

/-- The first check of CONFIG_QUEUE that fails, in the order of R82, or none if all pass. -/
def State.queueFailure (s : State) (first count mode watermark : Byte) : Option Reason :=
  if queueFieldsInRange count mode watermark = false then some .field
  else if first.toNat + count.toNat > 64 then some .slotRange
  else if (runSlots first.toNat count.toNat).any (fun n => s.namedByOn n) then some .slotConflict
  else if (runSlots first.toNat count.toNat).any (fun n => s.ownerAt n == .tool) then some .slotOwner
  else none

/-- The queue takes a configuration: the present run and the new run are emptied and the ring state reset (R83, R84). -/
def State.reconfigure (s : State) (q : Queue) : State :=
  { s with slots := emptyRun q (emptyRun s.queue s.slots), queue := q }

/-- CONFIG_QUEUE with count 0: refused while an ON entry has the action CAPTURE_QUEUE, otherwise unconfigured (R84). -/
def unconfigureQueue (s : State) : State × Answer :=
  if s.table.toList.any (fun e => e.acts .captureQueue) then (s, answer .badState)
  else (s.reconfigure Queue.unconfigured, answer .ok)

/-- The configuration that the arguments name, the ring empty (R83). -/
def queueOf (first count mode watermark : Byte) : Queue :=
  { first := first.toNat, count := count.toNat, mode := (queueModeOf mode).getD .stopWhenFull,
    watermark := watermark.toNat, oldest := 0, occupancy := 0 }

/-- CONFIG_QUEUE with a count other than 0 (R82, R83). -/
def configureQueue (first count mode watermark : Byte) (s : State) : State × Answer :=
  match s.queueFailure first count mode watermark with
  | some reason => (s, badArg reason)
  | none => (s.reconfigure (queueOf first count mode watermark), answer .ok)

/-- CONFIG_QUEUE: the session check comes first (R82, R84). -/
def configQueue (first count mode watermark : Byte) (s : State) : State × Answer :=
  if s.session.state = .idle then
    if count = 0#8 then unconfigureQueue s else configureQueue first count mode watermark s
  else (s, answer .badState)

/-! ### POP_QUEUE (R90) -/

/-- The queue pop access: the record at the oldest position becomes EMPTY, the oldest position advances, and the occupancy
falls by one (R90). -/
def State.removeOldest (s : State) : State :=
  let n := s.queue.slotAt s.queue.oldest
  (s.setSlot n { s.slot n with record := .empty }).setQueue
    { s.queue with oldest := s.queue.advance, occupancy := s.queue.occupancy - 1 }

/-- POP_QUEUE: the returned snapshot shows the record as it stood before the pop, with the role QUEUE (R90, R179). -/
def popQueue (s : State) : State × Answer :=
  if s.queue.count = 0 then (s, answer .badState)
  else if s.queue.occupancy = 0 then (s, answer .empty)
  else (s.removeOldest,
    answerWith .ok (snapshotBytes (s.queue.slotAt s.queue.oldest) .queue (s.slot (s.queue.slotAt s.queue.oldest))))

/-! ### READ_HISTORY (R78) -/

/-- The READ_HISTORY payload: the number of notes, then the notes, oldest first (11.8). -/
def historyBytes (notes : List Note) : List Byte := BitVec.ofNat 8 notes.length :: notes.flatMap noteBytes

/-- READ_HISTORY: the oldest notes, up to eight, are removed and returned (R78). -/
def readHistory (s : State) : State × Answer :=
  match s.history with
  | [] => (s, answer .empty)
  | _ :: _ =>
    ({ s with history := s.history.drop Config.historyBatch },
      answerWith .ok (historyBytes (s.history.take Config.historyBatch)))

/-- Meaning of CONFIG_QUEUE, code 30h (R82 to R84). -/
def execConfigQueue (seq first count mode watermark : Byte) (s : State) : Host.Outcome State Fault Refusal :=
  .next (linkExecute 0x30#8 seq (configQueue first count mode watermark) s)

/-- Meaning of POP_QUEUE, code 31h (R90). -/
def execPopQueue (seq : Byte) (s : State) : Host.Outcome State Fault Refusal :=
  .next (linkExecute 0x31#8 seq popQueue s)

/-- Meaning of READ_HISTORY, code 29h (R78). -/
def execReadHistory (seq : Byte) (s : State) : Host.Outcome State Fault Refusal :=
  .next (linkExecute 0x29#8 seq readHistory s)

end Sys2Proof.Machine
end

