-- ==== Sys2Proof/Machine/TimeBase.lean ====
section
/-! DEFINITION. The Time Base, its ticks on the limit timers, and SET_TIMEBASE (chapter 10). -/

namespace Sys2Proof.Machine

/-- The Time Base at a tick: the phase returns to 0, the value advances by one or takes the pending value, and a pending
prescaler comes into force (R164, R165). -/
def TimeBase.tick (b : TimeBase) : TimeBase :=
  match b.waiting with
  | none => { b with value := b.value + 1, phase := 0 }
  | some p =>
    { value := match p.load with
        | none => b.value + 1
        | some v => v
      prescaler := p.prescaler, phase := 0, waiting := none }

/-- A tick falls on the remaining ticks of a Tracker entry, which run while it is FORWARDED (R135, R167). -/
def TrackerEntry.tick (e : TrackerEntry) : TrackerEntry :=
  match e.state with
  | .forwarded => { e with timer := tickTimer e.timer }
  | .free => e
  | .classifying => e
  | .held => e
  | .orphaned => e

/-- A tick falls on the stall limit timer, which runs during the stall (R103, R167). -/
def Stage.tick : Stage → Stage
  | .stalled g slot timer => .stalled g slot (tickTimer timer)
  | .lookup => .lookup
  | .start g => .start g
  | .action g => .action g
  | .append g note => .append g note
  | .notice g => .notice g
  | .stop g => .stop g
  | .retire g => .retire g

/-- A tick of the Time Base, taken by every running limit timer (R164, R167). -/
def State.tick (s : State) : State :=
  { s with
    timeBase := s.timeBase.tick
    tracker := { s.tracker with entries := Vector.ofFn fun i => s.tracker.entries[i].tick }
    work := s.work.map fun w => { w with stage := w.stage.tick } }

/-- Meaning of TICK: one block clock. The phase rises by one, and where it would reach the prescaler a tick is taken
(R164; log 1). An expiry that the tick before it left to be taken is taken first (R167; log 4). While PORST_N is low the
Time Base does not count (R164; log 10). -/
def execTick (s : State) : Host.Outcome State Fault Refusal :=
  .next (if s.porstAsserted then s
    else if s.timeBase.phase + 1 < s.timeBase.prescaler then
      { s with timeBase := { s.timeBase with phase := s.timeBase.phase + 1 } }
    else s.settleTimers.tick)

/-- The value that SET_TIMEBASE asks to load: none for NO (00h), the new value for YES (01h); a byte that is neither gives
no answer (11.4, R165). -/
def loadOf (load : Byte) (value : Stamp) : Option (Option Stamp) :=
  match load.toNat with
  | 0 => some none
  | 1 => some (some value)
  | _ => none

/-- SET_TIMEBASE: a prescaler outside 1 to 256 or a load byte other than YES or NO is refused with FIELD; otherwise the
settings become pending, replacing any that are (R165). -/
def setTimebase (prescaler : HalfWord) (load : Byte) (value : Stamp) (s : State) : State × Answer :=
  if 1 ≤ prescaler.toNat ∧ prescaler.toNat ≤ 256 then
    match loadOf load value with
    | some l =>
      ({ s with timeBase := { s.timeBase with waiting := some { prescaler := prescaler.toNat, load := l } } }, answer .ok)
    | none => (s, badArg .field)
  else (s, badArg .field)

/-- Meaning of SET_TIMEBASE, code 50h (R165). -/
def execSetTimebase (seq : Byte) (prescaler : HalfWord) (load : Byte) (value : Stamp) (s : State) :
    Host.Outcome State Fault Refusal :=
  .next (linkExecute 0x50#8 seq (setTimebase prescaler load value) s)

end Sys2Proof.Machine
end

