-- ==== Sys2Proof/Machine/Tracker.lean ====
section
/-! DEFINITION. The memory path: acceptance, the M-port, memory responses, the response limit, release at the S-port,
SET_LIMITS, and SRST (chapter 8). -/

namespace Sys2Proof.Machine

/-! ### Acceptance (R128, R129) -/

/-- A request that passes the acceptance checks: its entry becomes CLASSIFYING with source, kind and beats, and the
request goes to the Classifier (R128, R23). -/
def State.acceptValid (s : State) (t : Tag) (r : Request) : State :=
  (s.setTrack t { s.track t with state := .classifying, source := r.source, kind := r.kind, beats := r.beats }).setWork
    (some { request := r, entry := t, stage := .lookup })

/-- A request that fails the acceptance checks: its entry becomes HELD with REJECTED at the tail of its source's order
list, the beats field unset, and REJECTS and REJECT are raised (R128, R129). -/
def State.acceptRejected (s : State) (t : Tag) (r : Request) : State :=
  let held := s.setTrack t
    { s.track t with
      state := .held, source := r.source, kind := r.kind, buffer := some { status := .rejected, beats := [] } }
  (held.setOrder r.source (held.order r.source ++ [t])).countAndRaise .rejects .reject

/-- The S-port may accept: no request under classification, neither reset asserted (R128). -/
def State.portOpen (s : State) : Bool := s.work.isNone && !s.srstAsserted && !s.porstAsserted

/-- Meaning of REQUEST_ACCEPT: the presented request takes the lowest-index FREE entry (R128). While a condition of R128
fails it waits at the port, unaccepted, and nothing changes (log 3). -/
def execRequestAccept (request : Request) (s : State) : Host.Outcome State Fault Refusal :=
  .next (if s.portOpen then
      match s.lowestFree with
      | none => s
      | some t => if acceptable request then s.acceptValid t request else s.acceptRejected t request
    else s)

/-! ### The M-port (R133) -/

/-- The oldest item of the send list is passed to the memory controller: its entry's sent becomes yes (R133). -/
def State.passOldest (s : State) (item : SendItem) (rest : List SendItem) : State :=
  { (s.setTrack item.entry { s.track item.entry with sent := true }).setSendList rest with
    mportRequest := some
      { tag := item.entry, kind := item.request.kind, address := item.request.address, beats := item.request.beats,
        write := item.request.write } }

/-- Meaning of MPORT_SEND: the controller can take a request, and takes the oldest of the send list (R133). -/
def execMportSend (s : State) : Host.Outcome State Fault Refusal :=
  .next (match s.tracker.sendList with
    | [] => s
    | item :: rest => s.passOldest item rest)

/-! ### Memory responses (R134, R138, R139) -/

/-- What a memory response does to the record of its request: a read fill (R66), a write completion (R68), or the outcome
MEM_FAULT (R67). `beats` is what the response was taken to carry. The fill covers the record's number of beats (R66): where
the check of R49 passes on the record of another request, of equal sequence and with more beats than were taken (R134), the
further beats are zero, which is the model's choice (log 30). -/
def closeByResponse (kind : Kind) (status : MemStatus) (beats : List Beat) (sl : Slot) : Slot :=
  match status, kind with
  | .fault, _ => { sl with outcome := .memFault }
  | .done, .write => { sl with outcome := .done }
  | .done, .read =>
    { sl with outcome := .done, data := mergeLine sl.data (fillByte sl.firstBeat.toNat sl.beats beats) }

/-- The response the buffer takes for a memory response (R134, step 3). -/
def bufferOf (kind : Kind) (status : MemStatus) (beats : List Beat) : Response :=
  match status, kind with
  | .fault, _ => { status := .memoryFault, beats := [] }
  | .done, .write => { status := .done, beats := [] }
  | .done, .read => { status := .done, beats := beats }

/-- The notice of a memory response (R134, step 4). -/
def State.noticeFault (s : State) (status : MemStatus) : State :=
  match status with
  | .done => s
  | .fault => s.countAndRaise .memoryFaults .memoryFault

/-- A memory response completes a FORWARDED entry whose request was sent (R134). That no ticks are left in the HELD entry is
the model's choice (log 13). -/
def State.completeByResponse (s : State) (t : Tag) (status : MemStatus) (beats : List Beat) : State :=
  let e := s.track t
  let taken := takenBeats e.beats beats
  ((s.closeLink e.link (closeByResponse e.kind status taken)).setTrack t
    { e with
      state := .held, link := none, slotServed := false, buffer := some (bufferOf e.kind status taken),
      timer := .unlimited }).noticeFault status

/-- A memory response is taken by the entry its tag names, as that entry stands: completed (R134), late (R138) or stray
(R139). -/
def State.takeResponse (s : State) (tag : Tag) (status : MemStatus) (beats : List Beat) : State :=
  match (s.track tag).state with
  | .forwarded => if (s.track tag).sent then s.completeByResponse tag status beats else s.count .strayResponses
  | .held =>
    if (s.track tag).orphan then (s.setTrack tag { s.track tag with orphan := false }).count .lateResponses
    else s.count .strayResponses
  | .orphaned => (s.setTrack tag ((s.track tag).cleared .free)).count .lateResponses
  | .free => s.count .strayResponses
  | .classifying => s.count .strayResponses

/-- Meaning of MEMORY_RESPONSE: a limit that a tick has brought to its end expires first (R167, R136), and the response is
taken by its entry (R134, R138, R139). While PORST_N is low it is discarded and counted nowhere (R130). -/
def execMemoryResponse (tag : Tag) (status : MemStatus) (beats : List Beat) (s : State) :
    Host.Outcome State Fault Refusal :=
  .next (if s.porstAsserted then s else (s.settleResponse tag).takeResponse tag status beats)

/-! ### The response limit (R135) -/

/-- Meaning of RESPONSE_LIMIT_EXPIRY: the expiry due of a FORWARDED entry is taken (R135). An entry with no expiry due
does not expire (log 3, log 4). -/
def execResponseLimitExpiry (entry : Tag) (s : State) : Host.Outcome State Fault Refusal :=
  .next (s.settleResponse entry)

/-! ### Release at the S-port (R137) -/

/-- The entry at the head of a source's order list if it is ready, that is, HELD (R137). -/
def State.readyHead (s : State) (src : SourceId) : Option Tag :=
  match s.order src with
  | [] => none
  | t :: _ => if (s.track t).state = .held then some t else none

/-- The source IDs in the order the arbiter looks at them: from pointer + 1 upwards, wrapping from 63 to 0 (R137). -/
def grantOrder (pointer : SourceId) : List SourceId :=
  (List.range 64).map fun i => Fin.ofNat 64 (pointer.val + 1 + i)

/-- The source the arbiter grants: the first after the pointer with a ready head (R137). -/
def State.granted (s : State) : Option SourceId :=
  (grantOrder s.tracker.pointer).find? fun src => (s.readyHead src).isSome

/-- The drain check made when an entry that carried the slot-served mark leaves (R137, R34). -/
def State.slotServedLeft (s : State) (served : Bool) : State := if served then s.completeDrain else s

/-- An entry is granted: its response is sent, it leaves its order list, the pointer takes its source ID, and it becomes
ORPHANED if its orphan mark is set and FREE otherwise, cleared (R137, R140). -/
def State.release (s : State) (src : SourceId) (t : Tag) : State :=
  let e := s.track t
  let left := (s.setTrack t (e.cleared (if e.orphan then .orphaned else .free))).setOrder src ((s.order src).drop 1)
  ({ left with
      tracker := { left.tracker with pointer := src }
      sportResponse := e.buffer.map fun b => { source := e.source, status := b.status, beats := b.beats } } :
    State).slotServedLeft e.slotServed

/-- Meaning of ARBITER_GRANT: the response path can take a response, and the ready entry of the next source in rotation
is sent (R137). With none ready nothing is sent (log 3). -/
def execArbiterGrant (s : State) : Host.Outcome State Fault Refusal :=
  .next (match s.granted with
    | none => s
    | some src =>
      match s.readyHead src with
      | none => s
      | some t => s.release src t)

/-! ### SET_LIMITS (R142) -/

/-- SET_LIMITS: both limit values, for forwards and stalls begun later (R142). -/
def setLimits (response stall : HalfWord) (s : State) : State × Answer :=
  ({ s with tracker := { s.tracker with responseLimit := response, stallLimit := stall } }, answer .ok)

/-- Meaning of SET_LIMITS, code 48h (R142). -/
def execSetLimits (seq : Byte) (response stall : HalfWord) (s : State) : Host.Outcome State Fault Refusal :=
  .next (linkExecute 0x48#8 seq (setLimits response stall) s)

/-! ### SRST (R143) -/

/-- The abandonment access with a link: the record is marked ABANDONED if the check of R49 passes, and a check that fails
changes nothing and counts nothing (R71). -/
def State.abandon (s : State) (l : CaptureLink) : State :=
  if (s.slot l.slot).closable l.sequence then s.setSlot l.slot { s.slot l.slot with outcome := .abandoned } else s

/-- The abandonment accesses of SRST, one for each entry that holds a link (R143, step 1). -/
def State.abandonLinked (s : State) : State :=
  (s.tracker.entries.toList.filterMap fun e => e.link).foldl State.abandon s

/-- The Classifier at SRST: the request under classification, stalled or not, is discarded, and a one-shot governing entry
turns OFF (R143, step 2; R39, R37; log 7). -/
def State.discardWork (s : State) : State :=
  match s.work with
  | none => s
  | some w =>
    match w.stage.governor with
    | none => s.setWork none
    | some g => (if isOneShot g.image then s.retire g else s).setWork none

/-- The Tracker at SRST: every entry FREE and cleared, every list empty, the pointer at 63; the limit values kept (R143,
steps 3, 4 and 6). -/
def Tracker.srst (k : Tracker) : Tracker :=
  { entries := Vector.ofFn fun i => k.entries[i].cleared .free
    orders := Vector.replicate 64 []
    sendList := []
    pointer := Config.pointerReset
    responseLimit := k.responseLimit
    stallLimit := k.stallLimit }

/-- The Tracker of the block at SRST. -/
def State.resetPath (s : State) : State := { s with tracker := s.tracker.srst }

/-- Meaning of SRST: the falling edge of SRST_N resets the memory path in one step (R143). A limit that a tick has brought
to its end expires first, so that its counts and causes stay (R167, R108). -/
def execSrst (s : State) : Host.Outcome State Fault Refusal :=
  .next { s.settleTimers.abandonLinked.discardWork.resetPath.completeDrain with srstAsserted := true }

/-- Meaning of SRST_RELEASE: SRST_N rises, and the S-port may accept again (R128). -/
def execSrstRelease (s : State) : Host.Outcome State Fault Refusal := .next { s with srstAsserted := false }

end Sys2Proof.Machine
end

