-- ==== Sys2Proof/Machine/Unit.lean ====
section
/-! DEFINITION. The alert and counter commands, GET_STATUS, CLEAR_UNIT, and PORST (chapters 9 and 10). -/

namespace Sys2Proof.Machine

/-! ### Counters and alerts (R171 to R175) -/

/-- READ_COUNTERS (R174). -/
def readCounters (s : State) : State × Answer := (s, answerWith .ok (counterBytes s.alerts))

/-- The counters with those of a set at 0 (R175). -/
def clearedCounters (set : BitVec 11) (counters : Vector (BitVec 16) 11) : Vector (BitVec 16) 11 :=
  Vector.ofFn fun i => if set.getLsbD i.val then 0#16 else counters[i]

/-- CLEAR_COUNTERS: the named counters become 0, and the answer carries all eleven as found (R175). -/
def clearCounters (image : HalfWord) (s : State) : State × Answer :=
  match setOfImage image with
  | none => (s, badArg .field)
  | some set =>
    ({ s with alerts := { s.alerts with counters := clearedCounters set s.alerts.counters } },
      answerWith .ok (counterBytes s.alerts))

/-- SET_ALERT_ENABLE: the enable set becomes the set given (R171). -/
def setAlertEnable (image : HalfWord) (s : State) : State × Answer :=
  match setOfImage image with
  | none => (s, badArg .field)
  | some set => ({ s with alerts := { s.alerts with enableSet := set } }, answer .ok)

/-- ACK_ALERT: the named pending flags clear, and the answer carries the pending set as found (R172). -/
def ackAlert (image : HalfWord) (s : State) : State × Answer :=
  match setOfImage image with
  | none => (s, badArg .field)
  | some set =>
    ({ s with alerts := { s.alerts with pendingSet := s.alerts.pendingSet &&& ~~~set } },
      answerWith .ok (setBytes s.alerts.pendingSet))

/-! ### GET_STATUS (R159) -/

/-- The stall items of the report: the stall flag and the governing entry, 0 when the flag is clear (R159). -/
def State.stallBytes (s : State) : List Byte :=
  match s.stall with
  | none => [0x00#8, 0x00#8]
  | some (_, g, _, _) => [0x01#8, BitVec.ofNat 8 g.index.val]

/-- The queue items of the report: first slot, count, mode, watermark, occupancy (11.9). -/
def queueBytes (q : Queue) : List Byte :=
  [BitVec.ofNat 8 q.first, BitVec.ofNat 8 q.count, q.mode.code, BitVec.ofNat 8 q.watermark, BitVec.ofNat 8 q.occupancy]

/-- Whether a selector holds B (11.9). -/
def Bank.isB : Bank → Bool
  | .a => false
  | .b => true

/-- The bank selectors as one byte, bit g for group g (11.9). -/
def banksByte (banks : Vector Bank 4) : Byte :=
  byteOfBits false false false false banks[3].isB banks[2].isB banks[1].isB banks[0].isB

/-- The GET_STATUS payload (11.9). It carries no unit counter, where R182 speaks of STALL_EXPIRIES in GET_STATUS: the owning
rule R159 and the layout of 11.9 are followed (log 28). -/
def State.statusBytes (s : State) : List Byte :=
  [s.mode.code] ++ s.stallBytes ++ [s.session.state.code, s.session.remaining] ++ queueBytes s.queue
    ++ [BitVec.ofNat 8 s.history.length, BitVec.ofNat 8 (s.trackCount .free), BitVec.ofNat 8 (s.trackCount .orphaned),
        banksByte s.banks]
    ++ leBytes 2 s.tracker.responseLimit ++ leBytes 2 s.tracker.stallLimit ++ leBytes 4 s.timeBase.value
    ++ leBytes 2 (BitVec.ofNat 16 s.timeBase.prescaler) ++ setBytes s.alerts.pendingSet ++ setBytes s.alerts.enableSet
    ++ leBytes 2 s.captureSeq

/-- GET_STATUS changes nothing (R159). -/
def getStatus (s : State) : State × Answer := (s, answerWith .ok s.statusBytes)

/-! ### CLEAR_UNIT (R161) -/

/-- What an accepted CLEAR_UNIT sets to its values after PORST; the mode, the Time Base, the Tracker's entries and lists,
the Link and the Classifier's work are kept (R161, R144; log 17). -/
def State.clearUnit (s : State) : State :=
  { s with
    table := Vector.replicate 32 MatchEntry.porst
    slots := Vector.replicate 64 Slot.porst
    captureSeq := 0
    queue := Queue.unconfigured
    history := []
    session := { state := .idle, remaining := 0 }
    banks := Vector.replicate 4 .a
    tracker := { s.tracker with responseLimit := 0, stallLimit := 0 }
    alerts := Alerts.porst }

/-- CLEAR_UNIT: the mode is checked first and the session second (R161). -/
def clearUnit (s : State) : State × Answer :=
  if s.mode = .bypass ∧ (s.session.state = .idle ∨ s.session.state = .frozen) then (s.clearUnit, answer .ok)
  else (s, answer .badState)

/-! ### PORST -/

/-- Meaning of PORST: every block takes its values after PORST (R22, R32, R58, R75, R80, R81, R112, R127, R130, R142, R147,
R164, R176), and PORST_N is low, so that a link period in progress is abandoned (R147). The pin SRST_N is not the block's to
change, and the commands that wait are outside it (log 9). -/
def execPorst (s : State) : Host.Outcome State Fault Refusal :=
  .next { State.reset with porstAsserted := true, srstAsserted := s.srstAsserted, pending := s.pending }

/-- Meaning of PORST_RELEASE: PORST_N rises (R128, R147, R164). If TL_CS_N is low then, the Link waits for it to go high
(R147): a period that PORST cut off is not taken when it ends. With PORST_N high already this is not that event (log 3). -/
def execPorstRelease (s : State) (chipSelected : Bool := false) : Host.Outcome State Fault Refusal :=
  .next (if s.porstAsserted then
      { s with porstAsserted := false, toolLink := { s.toolLink with awaitsHigh := chipSelected } }
    else s)

/-- Meaning of GET_STATUS, code 02h (R159). -/
def execGetStatus (seq : Byte) (s : State) : Host.Outcome State Fault Refusal :=
  .next (linkExecute 0x02#8 seq getStatus s)

/-- Meaning of CLEAR_UNIT, code 03h (R161). -/
def execClearUnit (seq : Byte) (s : State) : Host.Outcome State Fault Refusal :=
  .next (linkExecute 0x03#8 seq clearUnit s)

/-- Meaning of READ_COUNTERS, code 51h (R174). -/
def execReadCounters (seq : Byte) (s : State) : Host.Outcome State Fault Refusal :=
  .next (linkExecute 0x51#8 seq readCounters s)

/-- Meaning of CLEAR_COUNTERS, code 52h (R175). -/
def execClearCounters (seq : Byte) (set : HalfWord) (s : State) : Host.Outcome State Fault Refusal :=
  .next (linkExecute 0x52#8 seq (clearCounters set) s)

/-- Meaning of SET_ALERT_ENABLE, code 53h (R171). -/
def execSetAlertEnable (seq : Byte) (set : HalfWord) (s : State) : Host.Outcome State Fault Refusal :=
  .next (linkExecute 0x53#8 seq (setAlertEnable set) s)

/-- Meaning of ACK_ALERT, code 54h (R172). -/
def execAckAlert (seq : Byte) (set : HalfWord) (s : State) : Host.Outcome State Fault Refusal :=
  .next (linkExecute 0x54#8 seq (ackAlert set) s)

end Sys2Proof.Machine
end

