-- ==== Sys2Proof/Machine/Dispatch.lean ====
section
/-! DEFINITION. One arm per command of the table: each calls its meaning. -/

namespace Sys2Proof.Machine

/-- The effect of a command on everything but the queue of waiting commands. -/
def exec (i : Instr) (s : State) : Host.Outcome State Fault Refusal :=
  match i with
  | .porst => Sys2Proof.Machine.execPorst s
  | .porstRelease chipSelected => Sys2Proof.Machine.execPorstRelease s chipSelected
  | .srst => Sys2Proof.Machine.execSrst s
  | .srstRelease => Sys2Proof.Machine.execSrstRelease s
  | .requestAccept request => Sys2Proof.Machine.execRequestAccept request s
  | .classify => Sys2Proof.Machine.execClassify s
  | .startTrigger => Sys2Proof.Machine.execStartTrigger s
  | .watchAction => Sys2Proof.Machine.execWatchAction s
  | .captureSlotAction => Sys2Proof.Machine.execCaptureSlotAction s
  | .captureQueueAction => Sys2Proof.Machine.execCaptureQueueAction s
  | .overlayAction => Sys2Proof.Machine.execOverlayAction s
  | .historyAppend => Sys2Proof.Machine.execHistoryAppend s
  | .recordNotice => Sys2Proof.Machine.execRecordNotice s
  | .stopTrigger => Sys2Proof.Machine.execStopTrigger s
  | .oneShotRetire => Sys2Proof.Machine.execOneShotRetire s
  | .mportSend => Sys2Proof.Machine.execMportSend s
  | .memoryResponse tag status beats => Sys2Proof.Machine.execMemoryResponse tag status beats s
  | .tick => Sys2Proof.Machine.execTick s
  | .responseLimitExpiry entry => Sys2Proof.Machine.execResponseLimitExpiry entry s
  | .stallLimitExpiry => Sys2Proof.Machine.execStallLimitExpiry s
  | .arbiterGrant => Sys2Proof.Machine.execArbiterGrant s
  | .linkFault period => Sys2Proof.Machine.execLinkFault period s
  | .resync => Sys2Proof.Machine.execResync s
  | .duplicate code seq => Sys2Proof.Machine.execDuplicate code seq s
  | .unknownCommand code seq => Sys2Proof.Machine.execUnknownCommand code seq s
  | .nop seq => Sys2Proof.Machine.execNop seq s
  | .getStatus seq => Sys2Proof.Machine.execGetStatus seq s
  | .clearUnit seq => Sys2Proof.Machine.execClearUnit seq s
  | .writeEntry seq index image => Sys2Proof.Machine.execWriteEntry seq index image s
  | .readEntry seq index => Sys2Proof.Machine.execReadEntry seq index s
  | .enableEntry seq index => Sys2Proof.Machine.execEnableEntry seq index s
  | .disableEntry seq index => Sys2Proof.Machine.execDisableEntry seq index s
  | .clearEntryCounts seq index => Sys2Proof.Machine.execClearEntryCounts seq index s
  | .setMode seq mode => Sys2Proof.Machine.execSetMode seq mode s
  | .takeSlot seq slot => Sys2Proof.Machine.execTakeSlot seq slot s
  | .releaseSlot seq slot => Sys2Proof.Machine.execReleaseSlot seq slot s
  | .writeSlot seq slot offset length data => Sys2Proof.Machine.execWriteSlot seq slot offset length data s
  | .readSlot seq slot => Sys2Proof.Machine.execReadSlot seq slot s
  | .ackSlot seq slot sequence => Sys2Proof.Machine.execAckSlot seq slot sequence s
  | .readHistory seq => Sys2Proof.Machine.execReadHistory seq s
  | .configQueue seq first count mode watermark => Sys2Proof.Machine.execConfigQueue seq first count mode watermark s
  | .popQueue seq => Sys2Proof.Machine.execPopQueue seq s
  | .switchBank seq group bank => Sys2Proof.Machine.execSwitchBank seq group bank s
  | .sessionArm seq count => Sys2Proof.Machine.execSessionArm seq count s
  | .sessionRun seq count => Sys2Proof.Machine.execSessionRun seq count s
  | .sessionHalt seq => Sys2Proof.Machine.execSessionHalt seq s
  | .sessionClear seq => Sys2Proof.Machine.execSessionClear seq s
  | .setLimits seq response stall => Sys2Proof.Machine.execSetLimits seq response stall s
  | .setTimebase seq prescaler load value => Sys2Proof.Machine.execSetTimebase seq prescaler load value s
  | .readCounters seq => Sys2Proof.Machine.execReadCounters seq s
  | .clearCounters seq set => Sys2Proof.Machine.execClearCounters seq set s
  | .setAlertEnable seq set => Sys2Proof.Machine.execSetAlertEnable seq set s
  | .ackAlert seq set => Sys2Proof.Machine.execAckAlert seq set s

end Sys2Proof.Machine
end

