-- ==== Sys2Proof/Safety.lean ====
section
/-! DEFINITION. What the statements of this model speak of: when a command frame is executed, and the invariants. -/

namespace Sys2Proof.Machine

/-- The Link takes the periods that end: PORST_N is high, and the Link does not wait for TL_CS_N to go high (R147). -/
def State.TakesPeriods (s : State) : Prop := s.porstAsserted = false ∧ s.toolLink.awaitsHigh = false

/-- A command frame with this code and sequence is executed: the Link takes periods, and the pair is not the stored one
(R147, R149, R151). -/
def State.Executes (s : State) (code seq : Byte) : Prop := s.TakesPeriods ∧ s.storedPair ≠ some (code, seq)

/-- The state after a command, itself where the command stops. -/
def State.after (s : State) (c : Instr) : State :=
  match exec c s with
  | .next t => t
  | .fault _ => s
  | .refused _ => s

/-- No limit timer is at 0 with its expiry still to be taken (R167). -/
def State.NoExpiryDue (s : State) : Prop :=
  (∀ e : Tag, (s.track e).state = .forwarded → (s.track e).timer ≠ .expiryDue)
    ∧ ∀ w g n timer, s.stall = some (w, g, n, timer) → timer ≠ .expiryDue

/-- The state after the expiry row of every Tracker entry, from entry 0 upwards, and then that of the stall (R135, R107). -/
def State.afterExpiries (s : State) : State :=
  ((List.finRange 16).foldl (fun x e => x.after (.responseLimitExpiry e)) s).after .stallLimitExpiry

/-- A property that every step keeps. -/
def KeptByEveryStep (inv : State → Prop) : Prop := ∀ s t : State, inv s → step s = .next t → inv t

/-! ### Ranges -/

/-- The Arrival History holds at most 32 notes (R75). -/
def State.HistoryBounded (s : State) : Prop := s.history.length ≤ 32

/-- The prescaler, in force or pending, is 1 to 256, and the phase below the prescaler in force (R164, R165). -/
def State.TimeBaseLegal (s : State) : Prop :=
  1 ≤ s.timeBase.prescaler ∧ s.timeBase.prescaler ≤ 256 ∧ s.timeBase.phase < s.timeBase.prescaler
    ∧ ∀ p, s.timeBase.waiting = some p → 1 ≤ p.prescaler ∧ p.prescaler ≤ 256

/-- A remaining count of 0 is not found in STOPPING, and in IDLE nothing is loaded (R113, R118). -/
def State.SessionLegal (s : State) : Prop :=
  (s.session.state = .stopping → s.session.remaining ≠ 0) ∧ (s.session.state = .idle → s.session.remaining = 0)

/-- The queue is unconfigured, with every item at its value for that, or configured with its fields and ring state in
range (R80, R81). -/
def State.QueueLegal (s : State) : Prop :=
  s.queue = Queue.unconfigured
    ∨ (2 ≤ s.queue.count ∧ s.queue.count ≤ 32 ∧ s.queue.first + s.queue.count ≤ 64 ∧ 1 ≤ s.queue.watermark
        ∧ s.queue.watermark ≤ s.queue.count ∧ s.queue.oldest < s.queue.count ∧ s.queue.occupancy ≤ s.queue.count)

/-! ### Slots and entries -/

/-- No slot of the configured queue run is TOOL-owned (R92). -/
def State.QueueRunUnitOwned (s : State) : Prop := ∀ n : SlotId, s.queue.inRun n.val = true → (s.slot n).owner = .unit

/-- Every ON entry would still pass the checks of ENABLE_ENTRY: its fields are in range, its slots exist and are named by no
other ON entry and lie outside the queue run, and a CAPTURE_QUEUE entry has a configured queue (R11 to R16, R84). -/
def State.EntriesChecked (s : State) : Prop :=
  ∀ i : Fin 32, (s.matchEntry i).state = .on → s.enableFailure i = none

/-- The fields of every descriptor describe beats of one line, and the request under classification has passed the
acceptance checks (R42, R129). -/
def State.RecordsLegal (s : State) : Prop :=
  (∀ n : SlotId, 1 ≤ (s.slot n).beats ∧ (s.slot n).firstBeat.toNat + (s.slot n).beats ≤ 8
      ∧ (s.slot n).lineAddress.extractLsb' 0 6 = 0)
    ∧ ∀ w, s.work = some w → acceptable w.request = true

/-! ### The Tracker -/

/-- The stages before the Classifier's decision, in which the request's entry is CLASSIFYING (R23). -/
def Stage.deciding : Stage → Bool
  | .lookup => true
  | .start _ => true
  | .action _ => true
  | .append _ _ => true
  | .notice _ => true
  | .stalled _ _ _ => true
  | .stop _ => false
  | .retire _ => false

/-- The stage between the placing of a record's link and the forwarding of its request, in which the entry may hold a link
(R60, R85). -/
def Stage.recorded : Stage → Bool
  | .notice _ => true
  | .lookup => false
  | .start _ => false
  | .action _ => false
  | .append _ _ => false
  | .stalled _ _ _ => false
  | .stop _ => false
  | .retire _ => false

/-- An entry is in an order list only while FORWARDED or HELD (R130). -/
def TrackerEntry.listed (e : TrackerEntry) : Prop := e.state = .forwarded ∨ e.state = .held

/-- The fields of a Tracker entry agree with its state (R130): a link only before the closing event, the marks and the
buffer only while HELD, ticks left only while FORWARDED. -/
def TrackerEntry.Legal (e : TrackerEntry) : Prop :=
  (e.link.isSome → e.state = .classifying ∨ e.state = .forwarded) ∧ (e.slotServed → e.state = .held)
    ∧ (e.orphan → e.state = .held) ∧ (e.buffer.isSome ↔ e.state = .held) ∧ (e.timer ≠ .unlimited → e.state = .forwarded)

/-- The Tracker's entries are legal, the CLASSIFYING entry is that of the request under classification (R128, R130), and it
holds a link only once that of a record is placed (R60, R85). -/
def State.EntriesLegal (s : State) : Prop :=
  (∀ t : Tag, (s.track t).Legal)
    ∧ (∀ t : Tag, (s.track t).state = .classifying ↔ ∃ w, s.work = some w ∧ w.entry = t ∧ w.stage.deciding = true)
    ∧ ∀ w, s.work = some w → w.stage.deciding = true → w.stage.recorded = false → (s.track w.entry).link = none

/-- Each order list holds the FORWARDED and HELD entries of its source, each once (R130, R131). -/
def State.OrdersLegal (s : State) : Prop :=
  ∀ src : SourceId, (s.order src).Nodup ∧ ∀ t : Tag, t ∈ s.order src ↔ (s.track t).listed ∧ (s.track t).source = src

/-- The send list holds the FORWARDED entries not yet sent, each once (R133). -/
def State.SendListLegal (s : State) : Prop :=
  (s.tracker.sendList.map SendItem.entry).Nodup
    ∧ ∀ t : Tag, t ∈ s.tracker.sendList.map SendItem.entry ↔ (s.track t).state = .forwarded ∧ (s.track t).sent = false

/-- The Transaction Tracker as chapter 8 describes it. -/
def State.TrackerLegal (s : State) : Prop := s.EntriesLegal ∧ s.OrdersLegal ∧ s.SendListLegal

/-- In BYPASS no entry holds a slot-served answer (R32); in DRAINING one does (R34); a stall lasts only in ACTIVE (R38). -/
def State.ModeLegal (s : State) : Prop :=
  (s.mode = .bypass → s.anySlotServed = false) ∧ (s.mode = .draining → s.anySlotServed = true)
    ∧ (s.stall.isSome → s.mode = .active)

end Sys2Proof.Machine
end

