-- ==== Sys2Proof/Certificates/Slice0/Obligations.lean ====
section
/-! DEFINITION. The statements of this model, for the provers. -/

open Sys2Proof Sys2Proof.Machine

/-! ### The block as a whole -/

/-- A step takes the command at the front of the queue and runs it on the state with the queue's rest; with nothing
waiting the block idles, which is the model's choice (log 2). No command stops the block, and none touches the queue
of waiting commands. -/
def Obligations.StepRunsTheFrontCommandAndNeverStops : Prop :=
  ((∀ (c : Instr) (rest : List Instr) (s : State),
        s.pending = c :: rest → step s = exec c { s with pending := rest })
      ∧ ∀ s : State, s.pending = [] → step s = .next s)
    ∧ (∀ (c : Instr) (s : State), ∃ t, exec c s = .next t ∧ t.pending = s.pending)

/-- The state after PORST, item by item. That the two reset pins are released, that the Link waits for no TL_CS_N, and that
no response and no request has been sent is the model's choice (logs 9 and 12). -/
def Obligations.ResetHoldsTheValuesAfterPorst : Prop :=
  (∀ i : Fin 32, (State.reset.matchEntry i).state = .off ∧ (State.reset.matchEntry i).hits = 0
      ∧ (State.reset.matchEntry i).misses = 0
      ∧ imageBytes (State.reset.matchEntry i).image = List.replicate 23 0x00#8)
    ∧ (∀ n : SlotId, State.reset.slot n
        = { owner := .unit, record := .empty, new := false, overrun := false, sequence := 0, timeStamp := 0,
            lineAddress := 0, firstBeat := 0, beats := 1, enables := Vector.replicate 64 false, kind := .read,
            source := 0, outcome := .done, data := Vector.replicate 64 0 })
    ∧ (∀ t : Tag, State.reset.track t
        = { state := .free, source := 0, kind := .read, beats := 0, link := none, slotServed := false, orphan := false,
            sent := false, buffer := none, timer := .unlimited })
    ∧ (∀ src : SourceId, State.reset.order src = [])
    ∧ State.reset.tracker.sendList = [] ∧ State.reset.tracker.pointer = 63
    ∧ State.reset.tracker.responseLimit = 0 ∧ State.reset.tracker.stallLimit = 0
    ∧ State.reset.mode = .bypass ∧ State.reset.work = none ∧ State.reset.captureSeq = 0 ∧ State.reset.history = []
    ∧ State.reset.queue = Queue.unconfigured ∧ (∀ group : Fin 4, State.reset.banks[group] = .a)
    ∧ State.reset.session = { state := .idle, remaining := 0 }
    ∧ State.reset.timeBase = { value := 0, prescaler := 1, phase := 0, waiting := none }
    ∧ (∀ k : Counter, State.reset.counter k = 0)
    ∧ (∀ c : Cause, State.reset.isPending c = false ∧ State.reset.isEnabled c = false)
    ∧ State.reset.toolLink
        = { stored := none
            outgoing := { kind := .none, code := 0, seq := 0, status := .ok, payload := Vector.replicate 88 0 }
            awaitsHigh := false }
    ∧ State.reset.porstAsserted = false ∧ State.reset.srstAsserted = false
    ∧ State.reset.sportResponse = none ∧ State.reset.mportRequest = none ∧ State.reset.pending = []

/-- PORST puts the block into the state after PORST with PORST_N low, whatever it was doing; PORST_RELEASE raises the
pin, the Link waits for TL_CS_N to go high if it is low then, and nothing else changes. That PORST leaves the SRST_N pin and
the queue of waiting commands (log 9), that PORST_RELEASE carries the level of TL_CS_N (log 11), and that it changes nothing
with PORST_N high (log 3), is the model's. While PORST_N is low no tick counts, no memory response counts and no request is
accepted. A link period in progress at PORST is abandoned: while PORST_N is low, and after it while the Link waits, the end of
a low period of TL_CS_N is taken as no frame, and ends the wait. -/
def Obligations.PorstRestoresEveryItemAndNothingIsTaken : Prop :=
  (∀ s : State,
      exec .porst s
          = .next { State.reset with
              porstAsserted := true, srstAsserted := s.srstAsserted, pending := s.pending }
        ∧ ∀ chipSelected : Bool,
          (s.porstAsserted = true → exec (.porstRelease chipSelected) s
              = .next { s with porstAsserted := false, toolLink := { s.toolLink with awaitsHigh := chipSelected } })
            ∧ (s.porstAsserted = false → exec (.porstRelease chipSelected) s = .next s))
    ∧ (∀ s t : State, s.porstAsserted = true ∨ s.toolLink.awaitsHigh = true →
          t = { s with toolLink := { s.toolLink with awaitsHigh := false } } →
          (∀ (i : Instr) (f : Byte × Byte × List Byte), i.wellFormed = true → commandFields i = some f →
              exec i s = .next t)
            ∧ (∀ p : Period, exec (.linkFault p) s = .next t) ∧ exec .resync s = .next t
            ∧ (∀ code seq : Byte, exec (.duplicate code seq) s = .next t))
    ∧ (∀ s : State, s.porstAsserted = true →
          exec .tick s = .next s
            ∧ (∀ (t : Tag) (status : MemStatus) (beats : List Beat), exec (.memoryResponse t status beats) s = .next s)
            ∧ ∀ r : Request, exec (.requestAccept r) s = .next s)

/-! ### The Tool Link -/

/-- Every frame the block sends is 94 bytes: header, payload, and the CRC of its own bytes 0 to 91, low byte first;
the CRC of the manual's nine bytes is the manual's value; kinds, statuses and reasons have the codes of the Formats
chapter. TL_SDO carries the outgoing frame, each byte's most significant bit first, and then low; it is not driven while
TL_CS_N is high or PORST_N is low. That it is not driven while the Link waits for TL_CS_N to go high is the model's (log
27). -/
def Obligations.AnswerFramesCarryHeaderPayloadAndCrc : Prop :=
  crc16 [0x31#8, 0x32#8, 0x33#8, 0x34#8, 0x35#8, 0x36#8, 0x37#8, 0x38#8, 0x39#8] = 0xFEE8#16
    ∧ ∀ f : AnswerFrame,
        f.bytes.length = 94
          ∧ f.bytes.take 4 = [f.kind.code, f.code, f.seq, f.status.code]
          ∧ (f.bytes.drop 4).take 88 = f.payload.toList
          ∧ f.bytes.drop 92 = [(crc16 (f.bytes.take 92)).extractLsb' 0 8, (crc16 (f.bytes.take 92)).extractLsb' 8 8]
          ∧ f.kind.code = (match f.kind with
              | .none => 0x00#8
              | .response => 0x5A#8
              | .replayed => 0x5B#8)
          ∧ f.status.code = (match f.status with
              | .ok => 0x00#8
              | .accepted => 0x01#8
              | .busy => 0x02#8
              | .badState => 0x03#8
              | .badArg => 0x04#8
              | .notOwner => 0x05#8
              | .empty => 0x06#8
              | .stale => 0x07#8
              | .unknown => 0x08#8
              | .linkFault => 0x09#8)
          ∧ (∀ reason : Reason, badArg reason = { status := .badArg, payload := payloadOf [match reason with
              | .index => 0x01#8
              | .action => 0x02#8
              | .field => 0x03#8
              | .slotRange => 0x04#8
              | .windowShape => 0x05#8
              | .noQueue => 0x06#8
              | .slotConflict => 0x07#8
              | .slotOwner => 0x08#8
              | .extent => 0x09#8] })
          ∧ ∀ (s : State) (chipSelected : Bool) (n : Nat), s.toolLink.outgoing = f →
              (chipSelected = false ∨ s.porstAsserted = true ∨ s.toolLink.awaitsHigh = true →
                  s.sdo chipSelected n = .highZ)
                ∧ (chipSelected = true → s.porstAsserted = false → s.toolLink.awaitsHigh = false →
                  (∀ byte, f.bytes[n / 8]? = some byte →
                      s.sdo chipSelected n = if byte.getLsbD (7 - n % 8) = true then .high else .low)
                    ∧ (752 ≤ n → s.sdo chipSelected n = .low))

/-- A period is taken through the checks SHORT, CRC, resync, KIND, HEADER, NOP, duplicate, execution, in this order;
bits after the 752nd are ignored. -/
def Obligations.PeriodsAreTakenThroughTheChecksInOrder : Prop :=
  (∀ p : Period, p.bits.length < 752 → p.taken = .fault .short)
    ∧ (∀ (f : List Byte) (extra : List Bool), f.length = 94 →
        (Period.mk (f.flatMap bitsOfByte ++ extra)).taken
          = if f.drop 92 ≠ leBytes 2 (crc16 (f.take 92)) then .fault .crc
            else if f[0]? = some 0xC3#8 then .resync
            else if f[0]? ≠ some 0x3C#8 then .fault .kind
            else if f[3]? ≠ some 0x00#8 then .fault .header
            else .command (f.getD 1 0) (f.getD 2 0) ((f.drop 4).take 88))
    ∧ ∀ (stored : Option (Byte × Byte)) (p : Period),
        (∀ reason, p.taken = .fault reason → linkInstr stored p = .linkFault p)
          ∧ (p.taken = .resync → linkInstr stored p = .resync)
          ∧ ∀ code seq args, p.taken = .command code seq args →
              (code = 0x01#8 → linkInstr stored p = .nop seq)
                ∧ (code ≠ 0x01#8 → stored = some (code, seq) → linkInstr stored p = .duplicate code seq)
                ∧ (code ≠ 0x01#8 → stored ≠ some (code, seq) → linkInstr stored p = commandOf code seq args)

/-- Decoding agrees with encoding: the frame of a tool command, in a period with whatever bits after it, is taken as
that command with every argument as sent, unless it repeats the stored pair. Each command has the code of the Formats chapter
and takes its arguments from the payload bytes given there, multi-byte fields little-endian; any other code names none. -/
def Obligations.CommandFramesAreTakenAsTheirCommand : Prop :=
  (∀ (i : Instr) (code seq : Byte) (args frame : List Byte) (extra : List Bool) (stored : Option (Byte × Byte)),
      i.wellFormed = true → commandFields i = some (code, seq, args) → encodeFrame i = some frame →
      stored ≠ some (code, seq) →
      linkInstr stored (Period.mk (frame.flatMap bitsOfByte ++ extra)) = i)
    ∧ (∀ (code seq : Byte) (p : Payload),
          code ∉ [0x01#8, 0x02#8, 0x03#8, 0x10#8, 0x11#8, 0x12#8, 0x13#8, 0x14#8, 0x18#8, 0x20#8, 0x21#8, 0x22#8, 0x23#8,
            0x28#8, 0x29#8, 0x30#8, 0x31#8, 0x38#8, 0x40#8, 0x41#8, 0x42#8, 0x43#8, 0x48#8, 0x50#8, 0x51#8, 0x52#8, 0x53#8,
            0x54#8] →
          namesCommand code = false ∧ commandOf code seq p.toList = .unknownCommand code seq)
    ∧ ∀ (seq : Byte) (p : Payload) (data : Line), (∀ k : Fin 64, data[k] = p[3 + k.val]) →
        commandOf 0x01#8 seq p.toList = .nop seq
          ∧ commandOf 0x02#8 seq p.toList = .getStatus seq
          ∧ commandOf 0x03#8 seq p.toList = .clearUnit seq
          ∧ commandOf 0x10#8 seq p.toList
            = .writeEntry seq p[0]
              { base := p[5] ++ p[4] ++ p[3] ++ p[2] ++ p[1], careMask := p[10] ++ p[9] ++ p[8] ++ p[7] ++ p[6]
                access := p[11], sourceRef := p[12], sourceMask := p[13], action := p[14], captureSlot := p[15]
                group := p[16], runA := p[17], runB := p[18], runLength := p[19], writePolicy := p[20]
                fallback := p[21], trigger := p[22], oneShot := p[23] }
          ∧ commandOf 0x11#8 seq p.toList = .readEntry seq p[0]
          ∧ commandOf 0x12#8 seq p.toList = .enableEntry seq p[0]
          ∧ commandOf 0x13#8 seq p.toList = .disableEntry seq p[0]
          ∧ commandOf 0x14#8 seq p.toList = .clearEntryCounts seq p[0]
          ∧ commandOf 0x18#8 seq p.toList = .setMode seq p[0]
          ∧ commandOf 0x20#8 seq p.toList = .takeSlot seq p[0]
          ∧ commandOf 0x21#8 seq p.toList = .releaseSlot seq p[0]
          ∧ commandOf 0x22#8 seq p.toList = .writeSlot seq p[0] p[1] p[2] data
          ∧ commandOf 0x23#8 seq p.toList = .readSlot seq p[0]
          ∧ commandOf 0x28#8 seq p.toList = .ackSlot seq p[0] (p[2] ++ p[1])
          ∧ commandOf 0x29#8 seq p.toList = .readHistory seq
          ∧ commandOf 0x30#8 seq p.toList = .configQueue seq p[0] p[1] p[2] p[3]
          ∧ commandOf 0x31#8 seq p.toList = .popQueue seq
          ∧ commandOf 0x38#8 seq p.toList = .switchBank seq p[0] p[1]
          ∧ commandOf 0x40#8 seq p.toList = .sessionArm seq p[0]
          ∧ commandOf 0x41#8 seq p.toList = .sessionRun seq p[0]
          ∧ commandOf 0x42#8 seq p.toList = .sessionHalt seq
          ∧ commandOf 0x43#8 seq p.toList = .sessionClear seq
          ∧ commandOf 0x48#8 seq p.toList = .setLimits seq (p[1] ++ p[0]) (p[3] ++ p[2])
          ∧ commandOf 0x50#8 seq p.toList = .setTimebase seq (p[1] ++ p[0]) p[2] (p[6] ++ p[5] ++ p[4] ++ p[3])
          ∧ commandOf 0x51#8 seq p.toList = .readCounters seq
          ∧ commandOf 0x52#8 seq p.toList = .clearCounters seq (p[1] ++ p[0])
          ∧ commandOf 0x53#8 seq p.toList = .setAlertEnable seq (p[1] ++ p[0])
          ∧ commandOf 0x54#8 seq p.toList = .ackAlert seq (p[1] ++ p[0])

/-- A frame with a good CRC in which one bit of the 752 has changed on the wire is a link fault with reason CRC. -/
def Obligations.OneChangedBitIsACrcFault : Prop :=
  ∀ (body : List Byte) (k : Fin 752), body.length = 92 →
    (Period.mk (((withCrc body).flatMap bitsOfByte).modify k.val not)).taken = .fault .crc

/-- A command frame that repeats the stored code and sequence is not executed: the stored answer is replayed with kind
5Bh, and nothing else in the block changes, whether the frame comes as its own row or as DUPLICATE. That the frame may
come as either row is the model's choice (log 11). -/
def Obligations.RepeatedCommandsAreReplayedAndNotExecuted : Prop :=
  ∀ (s : State) (c : StoredCommand), s.TakesPeriods → s.toolLink.stored = some c →
    (∀ (i : Instr) (args : List Byte), i.wellFormed = true → commandFields i = some (c.code, c.seq, args) →
        c.code ≠ 0x01#8 →
        exec i s = .next (s.setOutgoing
          { kind := .replayed, code := c.code, seq := c.seq, status := c.answer.status, payload := c.answer.payload }))
      ∧ exec (.duplicate c.code c.seq) s = .next (s.setOutgoing
          { kind := .replayed, code := c.code, seq := c.seq, status := c.answer.status, payload := c.answer.payload })

/-- Any other command frame is executed and answered: it becomes the stored command with its answer, whatever the
status, and the next period sends that answer with kind 5Ah. -/
def Obligations.ExecutedCommandsAreStoredWithTheirAnswer : Prop :=
  ∀ (i : Instr) (code seq : Byte) (args : List Byte) (s : State),
    i.wellFormed = true → commandFields i = some (code, seq, args) → code ≠ 0x01#8 → s.Executes code seq →
    ∃ (t : State) (a : Answer), exec i s = .next t
      ∧ t.toolLink
          = { stored := some { code := code, seq := seq, answer := a }
              outgoing := { kind := .response, code := code, seq := seq, status := a.status, payload := a.payload }
              awaitsHigh := false }

/-- NOP is answered OK by the Link itself; a resync clears the stored command; a code that names no command is
answered UNKNOWN and stored. A faulty period is answered with code and sequence 00h, status LINK_FAULT and the reason
in payload byte 0; LINK_FAULTS rises, LINK_FAULT is raised, the stored command stays, and nothing else changes. -/
def Obligations.LinkAnswersNopResyncUnknownAndFaults : Prop :=
  (∀ (s : State), s.TakesPeriods →
      (∀ seq : Byte, exec (.nop seq) s = .next (s.setOutgoing
          { kind := .response, code := 0x01#8, seq := seq, status := .ok, payload := Vector.replicate 88 0 }))
        ∧ exec .resync s = .next { s with toolLink :=
            { stored := none
              outgoing := { kind := .none, code := 0, seq := 0, status := .ok, payload := Vector.replicate 88 0 }
              awaitsHigh := false } }
        ∧ ∀ code seq : Byte, namesCommand code = false → s.storedPair ≠ some (code, seq) →
            exec (.unknownCommand code seq) s
              = .next (s.store code seq { status := .unknown, payload := Vector.replicate 88 0 }))
    ∧ (∀ (s : State) (p : Period) (reason : LinkReason), s.TakesPeriods → p.taken = .fault reason →
          exec (.linkFault p) s
            = .next ((s.setOutgoing
                { kind := .response, code := 0, seq := 0, status := .linkFault
                  payload := payloadOf
                    [match reason with
                      | .short => 0x10#8
                      | .crc => 0x11#8
                      | .kind => 0x12#8
                      | .header => 0x13#8] }).countAndRaise .linkFaults .linkFault))

/-! ### Alerts and counters -/

/-- A notice raises its counter by one, holding at 65535, and sets its cause's pending flag; no other counter, cause
or enable changes. The ALERT line is asserted while a cause is both pending and enabled: ALERT_N is then driven low, and
it is not driven otherwise, nor while PORST_N is low. Causes and counters have the places of the Formats chapter. -/
def Obligations.NoticesRaiseTheirCounterAndCause : Prop :=
  ∀ (s : State) (k : Counter) (c : Cause),
    (s.countAndRaise k c).counter k = (if s.counter k = 65535 then 65535 else s.counter k + 1)
      ∧ (∀ k', k' ≠ k → (s.countAndRaise k c).counter k' = s.counter k')
      ∧ (∀ c', (s.countAndRaise k c).isPending c' = (decide (c' = c) || s.isPending c'))
      ∧ (∀ c', (s.countAndRaise k c).isEnabled c' = s.isEnabled c')
      ∧ (s.alert = true ↔ ∃ c', s.isPending c' = true ∧ s.isEnabled c' = true)
      ∧ s.alertN = (if s.alert = true ∧ s.porstAsserted = false then .low else .highZ)
      ∧ c.bit.val = (match c with
          | .frozen => 0
          | .watermark => 1
          | .queueLoss => 2
          | .historyLoss => 3
          | .overrun => 4
          | .stallExpired => 5
          | .drainDone => 6
          | .memoryFault => 7
          | .noAnswer => 8
          | .reject => 9
          | .linkFault => 10)
      ∧ k.place.val = (match k with
          | .rejects => 0
          | .memoryFaults => 1
          | .noAnswers => 2
          | .lateResponses => 3
          | .strayResponses => 4
          | .stallExpiries => 5
          | .queueDrops => 6
          | .queueOverwrites => 7
          | .historyLosses => 8
          | .discardedFills => 9
          | .linkFaults => 10)
      ∧ s.isPending c = s.alerts.pendingSet.getLsbD c.bit.val ∧ s.isEnabled c = s.alerts.enableSet.getLsbD c.bit.val
      ∧ s.counter k = s.alerts.counters[k.place]

/-- SET_ALERT_ENABLE replaces the enable set; ACK_ALERT clears the named pending flags and returns the pending set as
found; a set that names a position other than the eleven is refused with FIELD. READ_COUNTERS returns the eleven
counters; CLEAR_COUNTERS returns them as found and zeroes the named ones. -/
def Obligations.AlertAndCounterCommandsActOnTheNamedSet : Prop :=
  (∀ (s : State) (seq : Byte) (set : HalfWord),
      (s.Executes 0x53#8 seq →
          (set.toNat ≥ 2048 → exec (.setAlertEnable seq set) s = .next (s.store 0x53#8 seq (badArg .field)))
            ∧ (set.toNat < 2048 → exec (.setAlertEnable seq set) s
                = .next (State.store { s with alerts := { s.alerts with enableSet := set.setWidth 11 } } 0x53#8 seq
                    (answer .ok))))
        ∧ (s.Executes 0x54#8 seq →
          (set.toNat ≥ 2048 → exec (.ackAlert seq set) s = .next (s.store 0x54#8 seq (badArg .field)))
            ∧ (set.toNat < 2048 → ∃ t : State, exec (.ackAlert seq set) s
                  = .next (t.store 0x54#8 seq
                      (answerWith .ok [s.alerts.pendingSet.setWidth 8, (s.alerts.pendingSet >>> 8).setWidth 8]))
                ∧ t = { s with alerts := { s.alerts with pendingSet := t.alerts.pendingSet } }
                ∧ ∀ c : Cause, t.isPending c = (s.isPending c && !set.getLsbD c.bit.val))))
    ∧ (∀ (s : State) (seq : Byte) (set : HalfWord),
          (s.Executes 0x51#8 seq →
              exec (.readCounters seq) s = .next (s.store 0x51#8 seq (answerWith .ok (counterBytes s.alerts))))
            ∧ (s.Executes 0x52#8 seq →
              (set.toNat ≥ 2048 → exec (.clearCounters seq set) s = .next (s.store 0x52#8 seq (badArg .field)))
                ∧ (set.toNat < 2048 → ∃ t : State, exec (.clearCounters seq set) s
                      = .next (t.store 0x52#8 seq (answerWith .ok (counterBytes s.alerts)))
                    ∧ t = { s with alerts := { s.alerts with counters := t.alerts.counters } }
                    ∧ ∀ k : Counter, t.counter k = if set.getLsbD k.place.val then 0 else s.counter k))
            ∧ ∀ k : Counter, (counterBytes s.alerts).length = 22
                ∧ ((counterBytes s.alerts).drop (2 * k.place.val)).take 2
                    = [(s.counter k).setWidth 8, (s.counter k >>> 8).setWidth 8])

/-! ### The Match Table -/

/-- The governing entry is the ON entry of lowest index that passes the kind, source and address tests. -/
def Obligations.GoverningEntryIsTheLowestThatMatches : Prop :=
  ∀ (s : State) (r : Request),
    (∀ e : MatchEntry, e.matchesRequest r = true ↔
        e.state = .on
          ∧ (e.image.access = 0x02#8 ∨ (r.kind = .read ∧ e.image.access = 0x00#8)
              ∨ (r.kind = .write ∧ e.image.access = 0x01#8))
          ∧ (∀ k : Nat, k < 6 → e.image.sourceMask.getLsbD k = true →
              r.source.val.testBit k = e.image.sourceRef.getLsbD k)
          ∧ ∃ beat : Nat, beat < r.beats ∧ ∀ k : Nat, 3 ≤ k → k < 40 → e.image.careMask.getLsbD k = true →
              (r.address + BitVec.ofNat 40 (8 * beat)).getLsbD k = e.image.base.getLsbD k)
      ∧ (∀ i : Fin 32, s.governing r = some i ↔
          (s.matchEntry i).matchesRequest r = true ∧ ∀ j : Fin 32, j < i → (s.matchEntry j).matchesRequest r = false)
      ∧ (s.governing r = none ↔ ∀ i : Fin 32, (s.matchEntry i).matchesRequest r = false)

/-- WRITE_ENTRY: INDEX above 31, BUSY on an ON entry, and otherwise the fields as carried with both counts zero.
READ_ENTRY returns the whole entry, its image laid out as the Formats chapter gives, and changes none; CLEAR_ENTRY_COUNTS
zeroes its two counts in either state. -/
def Obligations.WriteReadAndClearOfAnEntry : Prop :=
  (∀ (s : State) (seq index : Byte) (image : EntryImage), s.Executes 0x10#8 seq →
      (index.toNat ≥ 32 → exec (.writeEntry seq index image) s = .next (s.store 0x10#8 seq (badArg .index)))
        ∧ ∀ i : Fin 32, index.toNat = i.val →
          ((s.matchEntry i).state = .on → exec (.writeEntry seq index image) s = .next (s.store 0x10#8 seq (answer .busy)))
            ∧ ((s.matchEntry i).state = .off → exec (.writeEntry seq index image) s
                = .next ((s.setMatch i { state := .off, image := image, hits := 0, misses := 0 }).store 0x10#8 seq
                    (answer .ok))))
    ∧ (∀ (s : State) (seq index : Byte),
          (s.Executes 0x11#8 seq →
              (index.toNat ≥ 32 → exec (.readEntry seq index) s = .next (s.store 0x11#8 seq (badArg .index)))
                ∧ ∀ i : Fin 32, index.toNat = i.val → exec (.readEntry seq index) s
                    = .next (s.store 0x11#8 seq (answerWith .ok
                        ([index, if (s.matchEntry i).state = .on then 0x01#8 else 0x00#8] ++ imageBytes (s.matchEntry i).image
                          ++ [(s.matchEntry i).hits.setWidth 8, ((s.matchEntry i).hits >>> 8).setWidth 8,
                              (s.matchEntry i).misses.setWidth 8, ((s.matchEntry i).misses >>> 8).setWidth 8]))))
            ∧ (s.Executes 0x14#8 seq →
              (index.toNat ≥ 32 → exec (.clearEntryCounts seq index) s = .next (s.store 0x14#8 seq (badArg .index)))
                ∧ ∀ i : Fin 32, index.toNat = i.val → exec (.clearEntryCounts seq index) s
                    = .next ((s.setMatch i { s.matchEntry i with hits := 0, misses := 0 }).store 0x14#8 seq (answer .ok))))
    ∧ ∀ m : EntryImage, imageBytes m
        = [m.base.extractLsb' 0 8, m.base.extractLsb' 8 8, m.base.extractLsb' 16 8,
            m.base.extractLsb' 24 8, m.base.extractLsb' 32 8,
            m.careMask.extractLsb' 0 8, m.careMask.extractLsb' 8 8, m.careMask.extractLsb' 16 8,
            m.careMask.extractLsb' 24 8, m.careMask.extractLsb' 32 8,
            m.access, m.sourceRef, m.sourceMask, m.action, m.captureSlot, m.group, m.runA, m.runB, m.runLength,
            m.writePolicy, m.fallback, m.trigger, m.oneShot]

/-- ENABLE_ENTRY: an ON entry is answered OK unchanged; an OFF entry is refused with the first check that fails, and
turned ON, counts kept, if none fails. DISABLE_ENTRY: OK unchanged on an OFF entry, BUSY while the Classifier is
stalled on a request of the entry, and otherwise the entry turns OFF with fields and counts kept. A request under
classification that the enabled entry governs is marked as governed before the enabling, so that it will not retire the
entry; that its fields are kept from the lookup is the model's reading (log 5). -/
def Obligations.EnableAndDisableEntryTurnItOnAndOff : Prop :=
  (∀ (s : State) (seq index : Byte), s.Executes 0x12#8 seq →
      (index.toNat ≥ 32 → exec (.enableEntry seq index) s = .next (s.store 0x12#8 seq (badArg .index)))
        ∧ ∀ i : Fin 32, index.toNat = i.val →
          ((s.matchEntry i).state = .on → exec (.enableEntry seq index) s = .next (s.store 0x12#8 seq (answer .ok)))
            ∧ ((s.matchEntry i).state = .off →
              (∀ reason, s.enableFailure i = some reason →
                  exec (.enableEntry seq index) s = .next (s.store 0x12#8 seq (badArg reason)))
                ∧ (s.enableFailure i = none → ∃ work : Option Work, exec (.enableEntry seq index) s
                      = .next (((s.setMatch i { s.matchEntry i with state := .on }).setWork work).store 0x12#8 seq
                          (answer .ok))
                    ∧ ((∀ w g, s.work = some w → w.stage.governor = some g → g.index ≠ i) → work = s.work)
                    ∧ ∀ (w : Work) (g : Governor) (place : Governor → Stage), s.work = some w → g.index = i →
                        (place = .start ∨ place = .action ∨ place = .notice ∨ place = .stop ∨ place = .retire
                          ∨ (∃ note, place = fun x => .append x note) ∨ ∃ n timer, place = fun x => .stalled x n timer) →
                        w.stage = place g → work = some { w with stage := place { g with renewed := true } })))
    ∧ (∀ (s : State) (seq index : Byte), s.Executes 0x13#8 seq →
          (index.toNat ≥ 32 → exec (.disableEntry seq index) s = .next (s.store 0x13#8 seq (badArg .index)))
            ∧ ∀ i : Fin 32, index.toNat = i.val →
              ((s.matchEntry i).state = .off → exec (.disableEntry seq index) s = .next (s.store 0x13#8 seq (answer .ok)))
                ∧ ((s.matchEntry i).state = .on →
                  (∀ w g n timer, s.stall = some (w, g, n, timer) → g.index = i →
                      exec (.disableEntry seq index) s = .next (s.store 0x13#8 seq (answer .busy)))
                    ∧ ((∀ w g n timer, s.stall = some (w, g, n, timer) → g.index ≠ i) →
                      exec (.disableEntry seq index) s
                        = .next ((s.setMatch i { s.matchEntry i with state := .off }).store 0x13#8 seq (answer .ok)))))

/-- The checks of ENABLE_ENTRY, in the order of the table, with what each of them looks at. A CAPTURE_SLOT entry names its
capture slot, an OVERLAY entry the slots of run A and of a present run B, and any other entry none; a WATCH or CAPTURE_QUEUE
entry passes the check of slot numbers. -/
def Obligations.EnableChecksAreMadeInTheOrderOfTheTable : Prop :=
  ∀ (s : State) (i : Fin 32) (m : EntryImage), (s.matchEntry i).image = m →
    s.enableFailure i
        = (([(Reason.action, (actionOf m.action).isNone), (Reason.field, !fieldsInRange m),
            (Reason.slotRange, !slotsInRange m),
            (Reason.windowShape, decide (m.action = 0x03#8) && !windowShaped m),
            (Reason.noQueue, decide (m.action = 0x02#8) && decide (s.queue.count = 0)),
            (Reason.slotConflict, s.slotConflict i m)]).find? fun check => check.2).map Prod.fst
      ∧ ((actionOf m.action).isNone = true ↔ m.action.toNat > 3)
      ∧ (fieldsInRange m = true ↔
          m.access.toNat ≤ 2 ∧ m.sourceRef.toNat ≤ 63 ∧ m.sourceMask.toNat ≤ 63 ∧ m.trigger.toNat ≤ 2
            ∧ m.oneShot.toNat ≤ 1
            ∧ (m.action = 0x03#8 → m.group.toNat ≤ 3 ∧ m.runLength.toNat ≤ 4 ∧ m.writePolicy.toNat ≤ 1
                ∧ m.fallback.toNat ≤ 1))
      ∧ (fieldsInRange m = true → m.action = 0x03#8 →
          (slotsInRange m = true ↔
            m.runA.toNat + 2 ^ m.runLength.toNat - 1 ≤ 63
              ∧ (m.runB ≠ 0 → m.runB.toNat - 1 + 2 ^ m.runLength.toNat - 1 ≤ 63))
          ∧ (windowShaped m = true ↔ ∀ k : Nat, k < 40 →
              (6 + m.runLength.toNat ≤ k → m.careMask.getLsbD k = true)
                ∧ (3 ≤ k → k < 6 + m.runLength.toNat → m.careMask.getLsbD k = false ∧ m.base.getLsbD k = false)))
      ∧ (m.action = 0x01#8 → (slotsInRange m = true ↔ m.captureSlot.toNat ≤ 63))
      ∧ (m.action = 0x00#8 ∨ m.action = 0x02#8 → slotsInRange m = true)
      ∧ (s.slotConflict i m = true ↔
          (∃ n ∈ namedSlots m, ∃ j : Fin 32, j ≠ i ∧ (s.matchEntry j).state = .on
              ∧ n ∈ namedSlots (s.matchEntry j).image)
            ∨ (∃ n ∈ namedSlots m, s.queue.first ≤ n ∧ n < s.queue.first + s.queue.count)
            ∨ (m.action = 0x03#8 ∧ m.runB ≠ 0 ∧ ∃ k l : Nat, k < linesOf m.runLength ∧ l < linesOf m.runLength
                ∧ m.runA.toNat + k = m.runB.toNat - 1 + l))
      ∧ (m.runLength.toNat ≤ 4 → linesOf m.runLength = 2 ^ m.runLength.toNat)
      ∧ (∀ n : Nat, n ∈ namedSlots m ↔
          (m.action = 0x01#8 ∧ n = m.captureSlot.toNat)
            ∨ (m.action = 0x03#8 ∧ m.runA.toNat ≤ n ∧ n < m.runA.toNat + linesOf m.runLength)
            ∨ (m.action = 0x03#8 ∧ m.runB ≠ 0 ∧ m.runB.toNat - 1 ≤ n ∧ n < m.runB.toNat - 1 + linesOf m.runLength))
      ∧ ∀ n : Nat, s.namedByOn n = true ↔ ∃ j : Fin 32, (s.matchEntry j).state = .on ∧ n ∈ namedSlots (s.matchEntry j).image

/-! ### The unit mode -/

/-- SET_MODE by the table of modes, requests and slot-served entries held; a stall that the mode leaving ACTIVE ends
has its request forwarded with no STOP step, and a one-shot entry's retirement next; any other argument is refused
with FIELD. A stall whose timer a tick has brought to 0 expires first (log 4). That the retirement, and after such an expiry
the STOP step, which then finds another mode than ACTIVE, are steps of their own is the model's (log 8). -/
def Obligations.SetModeFollowsTheTable : Prop :=
  ∀ (s : State) (seq mode : Byte), s.Executes 0x18#8 seq →
    (mode.toNat ≥ 2 → exec (.setMode seq mode) s = .next (s.store 0x18#8 seq (badArg .field)))
      ∧ (mode.toNat = 1 → exec (.setMode seq mode) s = .next ((s.setMode .active).store 0x18#8 seq (answer .ok)))
      ∧ (mode.toNat = 0 → s.mode = .bypass → exec (.setMode seq mode) s = .next (s.store 0x18#8 seq (answer .ok)))
      ∧ (mode.toNat = 0 → s.mode = .draining →
          exec (.setMode seq mode) s = .next (s.store 0x18#8 seq (answer .accepted)))
      ∧ ∀ (left : Mode) (status : Status),
          (left = .draining ∧ status = .accepted ∧ ∃ t : Tag, (s.track t).slotServed = true)
            ∨ (left = .bypass ∧ status = .ok ∧ ∀ t : Tag, (s.track t).slotServed = false) →
          mode.toNat = 0 → s.mode = .active →
          (s.stall = none → exec (.setMode seq mode) s = .next ((s.setMode left).store 0x18#8 seq (answer status)))
            ∧ (∀ w g n timer, s.stall = some (w, g, n, timer) → timer ≠ .expiryDue →
                exec (.setMode seq mode) s
                  = .next ((((s.setMode left).forward w).setWork
                      (if g.image.oneShot = 0x01#8 then some { w with stage := .retire g } else none)).store 0x18#8 seq
                      (answer status)))
            ∧ ∀ w g n t, s.stall = some (w, g, n, .expiryDue) → exec .stallLimitExpiry s = .next t →
                exec (.setMode seq mode) s = .next ((t.setMode left).store 0x18#8 seq (answer status))

/-! ### The Slot Store -/

/-- TAKE_SLOT refuses a QUEUE slot and otherwise makes the slot TOOL-owned. RELEASE_SLOT makes a TOOL-owned slot
UNIT-owned; the release of the stalled slot serves the stalled request in the same step and ends the stall; a slot
already UNIT-owned is answered OK unchanged. A stall whose timer a tick has brought to 0 expires first, and the release
changes only the owner (log 4). That the steps after the service are steps of their own is the model's (log 8). -/
def Obligations.TakeAndReleaseSlotChangeTheOwner : Prop :=
  (∀ (s : State) (seq slot : Byte), s.Executes 0x20#8 seq →
      (slot.toNat ≥ 64 → exec (.takeSlot seq slot) s = .next (s.store 0x20#8 seq (badArg .slotRange)))
        ∧ ∀ n : SlotId, slot.toNat = n.val →
          (s.role n = .queue → exec (.takeSlot seq slot) s = .next (s.store 0x20#8 seq (answer .badState)))
            ∧ (s.role n ≠ .queue → exec (.takeSlot seq slot) s
                = .next ((s.setSlot n { s.slot n with owner := .tool }).store 0x20#8 seq (answer .ok))))
    ∧ (∀ (s : State) (seq slot : Byte), s.Executes 0x21#8 seq →
          (slot.toNat ≥ 64 → exec (.releaseSlot seq slot) s = .next (s.store 0x21#8 seq (badArg .slotRange)))
            ∧ ∀ n : SlotId, slot.toNat = n.val →
              ((s.slot n).owner = .unit → exec (.releaseSlot seq slot) s = .next (s.store 0x21#8 seq (answer .ok)))
                ∧ ((s.slot n).owner = .tool →
                  ((∀ w g stalled timer, s.stall = some (w, g, stalled, timer) → stalled ≠ n) →
                      exec (.releaseSlot seq slot) s
                        = .next ((s.setSlot n { s.slot n with owner := .unit }).store 0x21#8 seq (answer .ok)))
                    ∧ (∀ w g timer, s.stall = some (w, g, n, timer) → timer ≠ .expiryDue →
                        exec (.releaseSlot seq slot) s
                          = .next ((((s.setSlot n { s.slot n with owner := .unit }).serve w n).afterAction w g).store 0x21#8 seq
                              (answer .ok)))
                    ∧ ∀ w g t, s.stall = some (w, g, n, .expiryDue) → exec .stallLimitExpiry s = .next t →
                        exec (.releaseSlot seq slot) s
                          = .next ((t.setSlot n { t.slot n with owner := .unit }).store 0x21#8 seq (answer .ok))))

/-- WRITE_SLOT checks slot, extent and owner in this order, and writes the first bytes of its data at the offset. -/
def Obligations.WriteSlotWritesItsExtent : Prop :=
  ∀ (s : State) (seq slot offset length : Byte) (data : Line), s.Executes 0x22#8 seq →
    (slot.toNat ≥ 64 →
        exec (.writeSlot seq slot offset length data) s = .next (s.store 0x22#8 seq (badArg .slotRange)))
      ∧ ∀ n : SlotId, slot.toNat = n.val →
        (length.toNat = 0 ∨ offset.toNat + length.toNat > 64 →
            exec (.writeSlot seq slot offset length data) s = .next (s.store 0x22#8 seq (badArg .extent)))
          ∧ (1 ≤ length.toNat → offset.toNat + length.toNat ≤ 64 →
            ((s.slot n).owner = .unit →
                exec (.writeSlot seq slot offset length data) s = .next (s.store 0x22#8 seq (answer .notOwner)))
              ∧ ((s.slot n).owner = .tool → ∃ written : Line,
                exec (.writeSlot seq slot offset length data) s
                    = .next ((s.setSlot n { s.slot n with data := written }).store 0x22#8 seq (answer .ok))
                  ∧ ∀ i : Fin 64, written[i]
                      = if h : offset.toNat ≤ i.val ∧ i.val < offset.toNat + length.toNat
                        then data[i.val - offset.toNat]'(by omega) else (s.slot n).data[i]))

/-- READ_SLOT changes nothing and returns the slot's snapshot, laid out as the Formats chapter gives. The role is QUEUE in
the run of the configured queue, CAPTURE for the capture slot of an ON CAPTURE_SLOT entry, OVERLAY for a slot of run A or
of a present run B of an ON OVERLAY entry, and UNBOUND for any other; where every ON entry is as ENABLE_ENTRY left it,
which every step keeps, these do not meet. -/
def Obligations.ReadSlotReturnsTheSnapshot : Prop :=
  ∀ (s : State) (seq slot : Byte), s.Executes 0x23#8 seq →
    (slot.toNat ≥ 64 → exec (.readSlot seq slot) s = .next (s.store 0x23#8 seq (badArg .slotRange)))
      ∧ ∀ n : SlotId, slot.toNat = n.val → ∃ payload : Payload,
          exec (.readSlot seq slot) s = .next (s.store 0x23#8 seq { status := .ok, payload := payload })
            ∧ payload[0] = slot
            ∧ payload[1].getLsbD 0 = decide ((s.slot n).owner = .tool)
            ∧ payload[1].getLsbD 1 = decide ((s.slot n).record = .held)
            ∧ payload[1].getLsbD 2 = (s.slot n).new ∧ payload[1].getLsbD 3 = (s.slot n).overrun
            ∧ payload[1].getLsbD 4 = decide ((s.slot n).kind = .write) ∧ payload[1].extractLsb' 5 3 = 0
            ∧ payload[2].extractLsb' 4 2 = (match (s.slot n).outcome with
                | .pending => 0#2
                | .done => 1#2
                | .memFault => 2#2
                | .abandoned => 3#2)
            ∧ payload[2].extractLsb' 2 2 = 0#2 ∧ payload[2].extractLsb' 6 2 = 0#2
            ∧ payload[3].toNat = (s.slot n).source.val
            ∧ (1 ≤ (s.slot n).beats → (s.slot n).beats ≤ 8 →
                payload[4].toNat = (s.slot n).firstBeat.toNat + 8 * ((s.slot n).beats - 1))
            ∧ payload[6] ++ payload[5] = (s.slot n).sequence
            ∧ payload[10] ++ payload[9] ++ payload[8] ++ payload[7] = (s.slot n).timeStamp
            ∧ payload[15] ++ payload[14] ++ payload[13] ++ payload[12] ++ payload[11] = (s.slot n).lineAddress
            ∧ (∀ (j : Fin 8) (i : Fin 8), payload[16 + j.val].getLsbD i.val
                = (s.slot n).enables[8 * j.val + i.val])
            ∧ (∀ i : Fin 64, payload[24 + i.val] = (s.slot n).data[i])
            ∧ ∀ queue capture overlay : Prop,
              (queue ↔ s.queue.first ≤ n.val ∧ n.val < s.queue.first + s.queue.count) →
              (capture ↔ ∃ i : Fin 32, (s.matchEntry i).state = .on ∧ (s.matchEntry i).image.action = 0x01#8
                ∧ (s.matchEntry i).image.captureSlot = slot) →
              (overlay ↔ ∃ (i : Fin 32) (run : Byte), (s.matchEntry i).state = .on
                ∧ (s.matchEntry i).image.action = 0x03#8
                ∧ (run = (s.matchEntry i).image.runA
                  ∨ ((s.matchEntry i).image.runB ≠ 0 ∧ run.toNat + 1 = (s.matchEntry i).image.runB.toNat))
                ∧ run.toNat ≤ n.val ∧ n.val < run.toNat + 2 ^ (s.matchEntry i).image.runLength.toNat) →
              s.EntriesChecked →
              (queue → payload[2].extractLsb' 0 2 = 3#2 ∧ ¬ capture ∧ ¬ overlay)
                ∧ (capture → payload[2].extractLsb' 0 2 = 1#2 ∧ ¬ queue ∧ ¬ overlay)
                ∧ (overlay → payload[2].extractLsb' 0 2 = 2#2 ∧ ¬ queue ∧ ¬ capture)
                ∧ (¬ queue → ¬ capture → ¬ overlay → payload[2].extractLsb' 0 2 = 0#2)

/-- ACK_SLOT clears new and overrun of a HELD record with the given sequence, and is answered STALE otherwise; the
payload shows sequence, record state and overrun as found. -/
def Obligations.AckSlotClearsTheFlagsOfTheNamedRecord : Prop :=
  ∀ (s : State) (seq slot : Byte) (sequence : HalfWord), s.Executes 0x28#8 seq →
    (slot.toNat ≥ 64 → exec (.ackSlot seq slot sequence) s = .next (s.store 0x28#8 seq (badArg .slotRange)))
      ∧ ∀ n : SlotId, slot.toNat = n.val → ∃ payload : Payload,
        payload = payloadOf [slot, (s.slot n).sequence.setWidth 8, ((s.slot n).sequence >>> 8).setWidth 8,
            if (s.slot n).record = .held then 0x01#8 else 0x00#8, if (s.slot n).overrun then 0x01#8 else 0x00#8]
          ∧ ((s.slot n).record = .held → (s.slot n).sequence = sequence →
              exec (.ackSlot seq slot sequence) s
                = .next ((s.setSlot n { s.slot n with new := false, overrun := false }).store 0x28#8 seq
                    { status := .ok, payload := payload }))
          ∧ ((s.slot n).record = .empty ∨ (s.slot n).sequence ≠ sequence →
              exec (.ackSlot seq slot sequence) s
                = .next (s.store 0x28#8 seq { status := .stale, payload := payload }))

/-- Record creation: the whole descriptor and data area of one slot are replaced from the request, with the next
capture sequence number and the Time Base value; new and overrun as a capture slot or a queue slot has them; OVERRUN
is raised where new was set; the owner, every other slot and everything else stay. -/
def Obligations.RecordCreationReplacesTheSlotWhole : Prop :=
  ∀ (s : State) (n : SlotId) (r : Request) (capture : Bool), r.wellFormed = true →
    ∃ sl : Slot,
      s.createRecord n r capture
          = (if capture = true ∧ (s.slot n).new = true
              then State.raise .overrun { s.setSlot n sl with captureSeq := s.captureSeq + 1 }
              else { s.setSlot n sl with captureSeq := s.captureSeq + 1 })
        ∧ sl.owner = (s.slot n).owner ∧ sl.record = .held ∧ sl.outcome = .pending
        ∧ sl.sequence = s.captureSeq ∧ sl.timeStamp = s.timeBase.value
        ∧ sl.lineAddress = (r.address >>> 6) <<< 6 ∧ sl.firstBeat = r.address.extractLsb' 3 3 ∧ sl.beats = r.beats
        ∧ sl.kind = r.kind ∧ sl.source = r.source
        ∧ sl.new = capture ∧ sl.overrun = (capture && (s.slot n).new)
        ∧ (∀ i : Fin 64, ¬ (sl.firstBeat.toNat ≤ i.val / 8 ∧ i.val / 8 < sl.firstBeat.toNat + r.beats) →
            sl.enables[i] = false ∧ sl.data[i] = 0)
        ∧ (∀ i : Fin 64, sl.firstBeat.toNat ≤ i.val / 8 → i.val / 8 < sl.firstBeat.toNat + r.beats →
            (r.kind = .read → sl.enables[i] = true ∧ sl.data[i] = 0)
              ∧ ∀ beat, r.kind = .write → r.write[i.val / 8 - sl.firstBeat.toNat]? = some beat →
                  sl.enables[i] = beat.enables.getLsbD (i.val % 8)
                    ∧ sl.data[i] = if beat.enables.getLsbD (i.val % 8) then beat.data.extractLsb' (8 * (i.val % 8)) 8
                        else 0)

/-- A closing access changes the record only if the slot is UNIT-owned and HELD with the linked sequence, its outcome
PENDING; otherwise DISCARDED_FILLS alone rises; with no link no access is made. A read fill writes the response's beats at
the record's beats; that beats of the record beyond those taken, which only the record of another request has, become zero is
the model's choice (log 30). -/
def Obligations.ClosingAccessesMakeTheFourWayCheck : Prop :=
  ∀ (s : State) (l : CaptureLink) (change : Slot → Slot),
    ((s.slot l.slot).owner = .unit ∧ (s.slot l.slot).record = .held ∧ (s.slot l.slot).sequence = l.sequence
        ∧ (s.slot l.slot).outcome = .pending →
      s.closeRecord l change = s.setSlot l.slot (change (s.slot l.slot)))
      ∧ (¬ ((s.slot l.slot).owner = .unit ∧ (s.slot l.slot).record = .held ∧ (s.slot l.slot).sequence = l.sequence
          ∧ (s.slot l.slot).outcome = .pending) →
        s.closeRecord l change = s.count .discardedFills)
      ∧ s.closeLink none change = s ∧ s.closeLink (some l) change = s.closeRecord l change
      ∧ ∀ (sl : Slot) (beats : List Beat),
          (∀ kind, closeByResponse kind .fault beats sl = { sl with outcome := .memFault })
            ∧ closeByResponse .write .done beats sl = { sl with outcome := .done }
            ∧ ∃ filled : Line, closeByResponse .read .done beats sl = { sl with outcome := .done, data := filled }
              ∧ ∀ i : Fin 64, filled[i]
                  = if sl.firstBeat.toNat ≤ i.val / 8 ∧ i.val / 8 < sl.firstBeat.toNat + sl.beats
                    then (beats.getD (i.val / 8 - sl.firstBeat.toNat) 0).extractLsb' (8 * (i.val % 8)) 8
                    else sl.data[i]

/-! ### Arrival History and Capture Queue -/

/-- READ_HISTORY removes and returns the oldest notes, up to eight, oldest first; an empty list is answered EMPTY. -/
def Obligations.ReadHistoryRemovesTheOldestNotes : Prop :=
  ∀ (s : State) (seq : Byte), s.Executes 0x29#8 seq →
    (s.history = [] → exec (.readHistory seq) s = .next (s.store 0x29#8 seq (answer .empty)))
      ∧ (s.history ≠ [] → exec (.readHistory seq) s
          = .next (State.store { s with history := s.history.drop 8 } 0x29#8 seq
              (answerWith .ok (BitVec.ofNat 8 (min 8 s.history.length) :: (s.history.take 8).flatMap fun note : Note =>
                [BitVec.ofNat 8 note.slot.val, note.sequence.setWidth 8, (note.sequence >>> 8).setWidth 8]))))

/-- CONFIG_QUEUE: only in IDLE; count 0 unconfigures unless an ON entry is CAPTURE_QUEUE; any other count is refused
with the first check that fails, or configures the queue; the records of the old run and of the new run are
emptied. -/
def Obligations.ConfigQueueChecksAndSetsTheRun : Prop :=
  ∀ (s : State) (seq first count mode watermark : Byte), s.Executes 0x30#8 seq →
    (s.session.state ≠ .idle →
        exec (.configQueue seq first count mode watermark) s = .next (s.store 0x30#8 seq (answer .badState)))
      ∧ (s.session.state = .idle → count = 0 →
        ((∃ i : Fin 32, (s.matchEntry i).state = .on ∧ (s.matchEntry i).image.action = 0x02#8) →
            exec (.configQueue seq first count mode watermark) s = .next (s.store 0x30#8 seq (answer .badState)))
          ∧ ((∀ i : Fin 32, (s.matchEntry i).state = .on → (s.matchEntry i).image.action ≠ 0x02#8) →
            exec (.configQueue seq first count mode watermark) s
              = .next (State.store { s with slots := emptyRun s.queue s.slots, queue := Queue.unconfigured } 0x30#8 seq
                  (answer .ok))))
      ∧ (s.session.state = .idle → count ≠ 0 → ∀ (inField inRange apart unitOwned : Prop),
          (inField ↔ 2 ≤ count.toNat ∧ count.toNat ≤ 32 ∧ mode.toNat ≤ 1 ∧ 1 ≤ watermark.toNat
              ∧ watermark.toNat ≤ count.toNat) →
          (inRange ↔ first.toNat + count.toNat ≤ 64) →
          (apart ↔ ∀ n : Nat, first.toNat ≤ n → n < first.toNat + count.toNat → s.namedByOn n = false) →
          (unitOwned ↔ ∀ n : SlotId, first.toNat ≤ n.val → n.val < first.toNat + count.toNat →
              (s.slot n).owner = .unit) →
          (¬ inField →
              exec (.configQueue seq first count mode watermark) s = .next (s.store 0x30#8 seq (badArg .field)))
            ∧ (inField → ¬ inRange →
              exec (.configQueue seq first count mode watermark) s = .next (s.store 0x30#8 seq (badArg .slotRange)))
            ∧ (inField → inRange → ¬ apart →
              exec (.configQueue seq first count mode watermark) s = .next (s.store 0x30#8 seq (badArg .slotConflict)))
            ∧ (inField → inRange → apart → ¬ unitOwned →
              exec (.configQueue seq first count mode watermark) s = .next (s.store 0x30#8 seq (badArg .slotOwner)))
            ∧ (inField → inRange → apart → unitOwned → ∃ q : Queue,
              exec (.configQueue seq first count mode watermark) s
                  = .next (State.store { s with slots := emptyRun q (emptyRun s.queue s.slots), queue := q } 0x30#8 seq
                      (answer .ok))
                ∧ q.first = first.toNat ∧ q.count = count.toNat ∧ q.watermark = watermark.toNat
                ∧ q.mode = (if mode.toNat = 0 then .stopWhenFull else .ring) ∧ q.oldest = 0 ∧ q.occupancy = 0))
      ∧ ∀ (q : Queue) (n : SlotId), (emptyRun q s.slots)[n]
          = if q.first ≤ n.val ∧ n.val < q.first + q.count then { s.slot n with record := .empty } else s.slot n

/-- POP_QUEUE: BAD_STATE unconfigured, EMPTY with nothing held; otherwise the oldest record is returned as it stood,
its record state becomes EMPTY, the oldest position advances around the ring and the occupancy falls by one. -/
def Obligations.PopQueueRemovesTheOldestRecord : Prop :=
  ∀ (s : State) (seq : Byte), s.Executes 0x31#8 seq →
    (s.queue.count = 0 → exec (.popQueue seq) s = .next (s.store 0x31#8 seq (answer .badState)))
      ∧ (s.queue.count ≠ 0 → s.queue.occupancy = 0 → exec (.popQueue seq) s = .next (s.store 0x31#8 seq (answer .empty)))
      ∧ ∀ n : SlotId, s.queue.count ≠ 0 → s.queue.occupancy ≠ 0 → n.val = s.queue.first + s.queue.oldest →
          exec (.popQueue seq) s
            = .next (((s.setSlot n { s.slot n with record := .empty }).setQueue
                { s.queue with
                  oldest := (s.queue.oldest + 1) % s.queue.count, occupancy := s.queue.occupancy - 1 }).store 0x31#8 seq
                (answerWith .ok (snapshotBytes n .queue (s.slot n))))

/-! ### Banks -/

/-- SWITCH_BANK: FIELD for a group above 3 or a byte that is no bank; a selector that already holds the bank changes
nothing; otherwise the selector takes it, and a stall of the group is served from its new slot if that is UNIT-owned,
and goes on against it, timer kept, if it is TOOL-owned. A stall that would be served, with a timer that a tick has brought
to 0, expires first (log 4). That the steps after the service are steps of their own is the model's (log 8). -/
def Obligations.SwitchBankSetsTheSelectorAndRederivesAStall : Prop :=
  ∀ (s : State) (seq group bank : Byte), s.Executes 0x38#8 seq →
    (group.toNat ≥ 4 ∨ bank.toNat ≥ 2 → exec (.switchBank seq group bank) s = .next (s.store 0x38#8 seq (badArg .field)))
      ∧ ∀ (k : Fin 4) (named : Bank), group.toNat = k.val → bank.toNat = (if named = .a then 0 else 1) →
        (s.banks[k] = named → exec (.switchBank seq group bank) s = .next (s.store 0x38#8 seq (answer .ok)))
          ∧ (s.banks[k] ≠ named → ∀ s' : State, s' = { s with banks := s.banks.set k named } →
            ((∀ w g n timer, s.stall = some (w, g, n, timer) → groupOf g.image ≠ k) →
                exec (.switchBank seq group bank) s = .next (s'.store 0x38#8 seq (answer .ok)))
              ∧ ∀ w g n timer, s.stall = some (w, g, n, timer) → groupOf g.image = k →
                ((s.slot (servingSlotOf g.image named w.request)).owner = .unit → timer = .expiryDue →
                    ∀ t, exec .stallLimitExpiry s = .next t → exec (.switchBank seq group bank) s
                      = .next (State.store { t with banks := t.banks.set k named } 0x38#8 seq (answer .ok)))
                  ∧ ((s.slot (servingSlotOf g.image named w.request)).owner = .unit → timer ≠ .expiryDue →
                    exec (.switchBank seq group bank) s
                      = .next (((s'.serve w (servingSlotOf g.image named w.request)).afterAction w g).store 0x38#8 seq
                          (answer .ok)))
                  ∧ ((s.slot (servingSlotOf g.image named w.request)).owner = .tool →
                    exec (.switchBank seq group bank) s
                      = .next ((s'.setWork (some { w with
                          stage := .stalled g (servingSlotOf g.image named w.request) timer })).store 0x38#8 seq
                          (answer .ok))))

/-! ### Sessions -/

/-- SESSION_ARM: IDLE and FROZEN become ARMED, with the post-stop count loaded; the other states refuse it with BAD_STATE,
unchanged. SESSION_RUN: IDLE, ARMED and FROZEN become RUNNING, with the post-stop count loaded; RUNNING and STOPPING
refuse it with BAD_STATE, unchanged. A STOP trigger that is the Classifier's next step when either command takes the
session out of FROZEN is marked to be ignored, which is the model's reading of the last row of R125 (log 26). -/
def Obligations.SessionArmAndRunFollowTheirTables : Prop :=
  (∀ (s : State) (seq count : Byte), s.Executes 0x40#8 seq →
      (s.session.state = .idle →
          exec (.sessionArm seq count) s
            = .next ((s.setSession { state := .armed, remaining := count }).store 0x40#8 seq (answer .ok)))
        ∧ (s.session.state = .frozen → ∃ work : Option Work,
          exec (.sessionArm seq count) s
              = .next (((s.setSession { state := .armed, remaining := count }).setWork work).store 0x40#8 seq (answer .ok))
            ∧ ((∀ w g, s.work = some w → w.stage ≠ .stop g) → work = s.work)
            ∧ ∀ w g, s.work = some w → w.stage = .stop g →
                work = some { w with stage := .stop { g with stopIgnored := true } })
        ∧ (s.session.state = .armed ∨ s.session.state = .running ∨ s.session.state = .stopping →
          exec (.sessionArm seq count) s = .next (s.store 0x40#8 seq (answer .badState))))
    ∧ (∀ (s : State) (seq count : Byte), s.Executes 0x41#8 seq →
          (s.session.state = .idle ∨ s.session.state = .armed →
              exec (.sessionRun seq count) s
                = .next ((s.setSession { state := .running, remaining := count }).store 0x41#8 seq (answer .ok)))
            ∧ (s.session.state = .frozen → ∃ work : Option Work,
              exec (.sessionRun seq count) s
                  = .next (((s.setSession { state := .running, remaining := count }).setWork work).store 0x41#8 seq
                      (answer .ok))
                ∧ ((∀ w g, s.work = some w → w.stage ≠ .stop g) → work = s.work)
                ∧ ∀ w g, s.work = some w → w.stage = .stop g →
                    work = some { w with stage := .stop { g with stopIgnored := true } })
            ∧ (s.session.state = .running ∨ s.session.state = .stopping →
              exec (.sessionRun seq count) s = .next (s.store 0x41#8 seq (answer .badState))))

/-- SESSION_HALT by its table: FROZEN is raised for each entry into FROZEN, and not for a halt that finds the session
FROZEN. -/
def Obligations.SessionHaltFollowsItsTable : Prop :=
  ∀ (s : State) (seq : Byte), s.Executes 0x42#8 seq →
    (s.session.state = .armed ∨ s.session.state = .running ∨ s.session.state = .stopping →
        exec (.sessionHalt seq) s
          = .next (((s.setSession { s.session with state := .frozen }).raise .frozen).store 0x42#8 seq (answer .ok)))
      ∧ (s.session.state = .frozen → exec (.sessionHalt seq) s = .next (s.store 0x42#8 seq (answer .ok)))
      ∧ (s.session.state = .idle → exec (.sessionHalt seq) s = .next (s.store 0x42#8 seq (answer .badState)))

/-- SESSION_CLEAR: in IDLE and FROZEN the queue run and the history are emptied, the ring state reset and the session
IDLE with nothing loaded; in the other states it is refused with BAD_STATE. -/
def Obligations.SessionClearEmptiesQueueAndHistory : Prop :=
  ∀ (s : State) (seq : Byte), s.Executes 0x43#8 seq →
    (s.session.state = .idle ∨ s.session.state = .frozen →
        exec (.sessionClear seq) s
          = .next (State.store
              { s with
                slots := emptyRun s.queue s.slots
                queue := { s.queue with oldest := 0, occupancy := 0 }
                history := []
                session := { state := .idle, remaining := 0 } } 0x43#8 seq (answer .ok)))
      ∧ (s.session.state = .armed ∨ s.session.state = .running ∨ s.session.state = .stopping →
        exec (.sessionClear seq) s = .next (s.store 0x43#8 seq (answer .badState)))

/-! ### Limits, Time Base, status, clearing -/

/-- SET_LIMITS sets both limit values, whatever they are, and nothing else. SET_TIMEBASE: FIELD outside its ranges;
otherwise its settings become pending and replace any that are. -/
def Obligations.LimitAndTimebaseCommandsSetTheirValues : Prop :=
  (∀ (s : State) (seq : Byte) (response stall : HalfWord), s.Executes 0x48#8 seq →
      exec (.setLimits seq response stall) s
        = .next (State.store
            { s with tracker := { s.tracker with responseLimit := response, stallLimit := stall } } 0x48#8 seq (answer .ok)))
    ∧ (∀ (s : State) (seq : Byte) (prescaler : HalfWord) (load : Byte) (value : Stamp), s.Executes 0x50#8 seq →
          (prescaler.toNat = 0 ∨ prescaler.toNat > 256 ∨ load.toNat ≥ 2 →
              exec (.setTimebase seq prescaler load value) s = .next (s.store 0x50#8 seq (badArg .field)))
            ∧ (1 ≤ prescaler.toNat → prescaler.toNat ≤ 256 → load.toNat ≤ 1 → ∀ settings : PendingBase,
              settings = { prescaler := prescaler.toNat, load := if load.toNat = 1 then some value else none } →
              exec (.setTimebase seq prescaler load value) s
                = .next (State.store { s with timeBase := { s.timeBase with waiting := some settings } } 0x50#8 seq
                    (answer .ok))))

/-- One block clock (log 1): below the prescaler the phase rises and nothing else changes; otherwise the phase returns
to 0, the value advances or takes the pending value, pending settings come into force, and every running limit timer
is lowered by one, a timer's last tick leaving its expiry to be taken (log 4). Expiries that the tick before left to be
taken are taken first. -/
def Obligations.TicksAdvanceTheTimeBaseAndEveryTimer : Prop :=
  ∀ s : State, s.porstAsserted = false →
    (s.timeBase.phase + 1 < s.timeBase.prescaler →
        exec .tick s = .next { s with timeBase := { s.timeBase with phase := s.timeBase.phase + 1 } })
      ∧ (s.timeBase.prescaler ≤ s.timeBase.phase + 1 → exec .tick s = exec .tick s.afterExpiries)
      ∧ (s.timeBase.prescaler ≤ s.timeBase.phase + 1 → s.NoExpiryDue → ∃ t : State, exec .tick s = .next t
          ∧ t = { s with timeBase := t.timeBase, tracker := { s.tracker with entries := t.tracker.entries },
                         work := t.work }
          ∧ t.timeBase.phase = 0 ∧ t.timeBase.waiting = none
          ∧ (s.timeBase.waiting = none →
              t.timeBase.value = s.timeBase.value + 1 ∧ t.timeBase.prescaler = s.timeBase.prescaler)
          ∧ (∀ p, s.timeBase.waiting = some p →
              t.timeBase.value = p.load.getD (s.timeBase.value + 1) ∧ t.timeBase.prescaler = p.prescaler)
          ∧ (∀ e : Tag, t.track e
              = if (s.track e).state = .forwarded then { s.track e with timer := tickTimer (s.track e).timer }
                else s.track e)
          ∧ (s.stall = none → t.work = s.work)
          ∧ (∀ w g n timer, s.stall = some (w, g, n, timer) →
              t.work = some { w with stage := .stalled g n (tickTimer timer) }))
      ∧ tickTimer .unlimited = .unlimited ∧ tickTimer (.running 1) = .expiryDue
      ∧ ∀ n : BitVec 16, 2 ≤ n.toNat → tickTimer (.running n) = .running (n - 1)

/-- GET_STATUS changes nothing and reports every item at its place. That STALL_EXPIRIES is not among them, where R182 speaks
of it, is deduced from R159, the command's owning rule (log 28). -/
def Obligations.GetStatusReportsEveryItem : Prop :=
  ∀ (s : State) (seq : Byte), s.Executes 0x02#8 seq → ∃ p : Payload,
    exec (.getStatus seq) s = .next (s.store 0x02#8 seq { status := .ok, payload := p })
      ∧ p[0] = (match s.mode with
          | .bypass => 0x00#8
          | .active => 0x01#8
          | .draining => 0x02#8)
      ∧ (s.stall = none → p[1] = 0 ∧ p[2] = 0)
      ∧ (∀ w g n timer, s.stall = some (w, g, n, timer) → p[1] = 1 ∧ p[2].toNat = g.index.val)
      ∧ p[3] = (match s.session.state with
          | .idle => 0x00#8
          | .armed => 0x01#8
          | .running => 0x02#8
          | .stopping => 0x03#8
          | .frozen => 0x04#8)
      ∧ p[4] = s.session.remaining
      ∧ (s.QueueLegal → p[5].toNat = s.queue.first ∧ p[6].toNat = s.queue.count
          ∧ p[7] = (match s.queue.mode with
            | .stopWhenFull => 0x00#8
            | .ring => 0x01#8)
          ∧ p[8].toNat = s.queue.watermark ∧ p[9].toNat = s.queue.occupancy)
      ∧ (s.HistoryBounded → p[10].toNat = s.history.length)
      ∧ p[11].toNat = ((List.finRange 16).filter fun t => (s.track t).state = .free).length
      ∧ p[12].toNat = ((List.finRange 16).filter fun t => (s.track t).state = .orphaned).length
      ∧ (∀ k : Fin 8, p[13].getLsbD k.val = if h : k.val < 4 then decide (s.banks[k.val] = .b) else false)
      ∧ p[15] ++ p[14] = s.tracker.responseLimit ∧ p[17] ++ p[16] = s.tracker.stallLimit
      ∧ p[21] ++ p[20] ++ p[19] ++ p[18] = s.timeBase.value
      ∧ (s.TimeBaseLegal → (p[23] ++ p[22]).toNat = s.timeBase.prescaler)
      ∧ p[25] ++ p[24] = s.alerts.pendingSet.setWidth 16 ∧ p[27] ++ p[26] = s.alerts.enableSet.setWidth 16
      ∧ p[29] ++ p[28] = s.captureSeq
      ∧ ∀ i : Fin 88, 30 ≤ i.val → p[i] = 0

/-- CLEAR_UNIT: refused outside BYPASS and outside IDLE and FROZEN; otherwise the listed items take their values after
PORST and everything else is kept. That the Classifier's work is among what is kept is the model's (log 17). -/
def Obligations.ClearUnitRestoresConfigurationAndRecordings : Prop :=
  ∀ (s : State) (seq : Byte), s.Executes 0x03#8 seq →
    (s.mode ≠ .bypass ∨ s.session.state = .armed ∨ s.session.state = .running ∨ s.session.state = .stopping →
        exec (.clearUnit seq) s = .next (s.store 0x03#8 seq (answer .badState)))
      ∧ (s.mode = .bypass → s.session.state = .idle ∨ s.session.state = .frozen →
        exec (.clearUnit seq) s
          = .next (State.store
              { s with
                table := State.reset.table, slots := State.reset.slots, captureSeq := State.reset.captureSeq
                queue := State.reset.queue, history := State.reset.history, session := State.reset.session
                banks := State.reset.banks, alerts := State.reset.alerts
                tracker := { s.tracker with responseLimit := 0, stallLimit := 0 } } 0x03#8 seq (answer .ok)))

/-! ### Acceptance and classification -/

/-- REQUEST_ACCEPT: with no request under classification, no reset and an entry FREE, the lowest-index FREE entry
takes the request: to the Classifier if it passes the acceptance checks, and HELD with REJECTED at the tail of its
source's list, counted, if not. Otherwise the request waits and nothing changes. That a rejected entry's beats field
is not written is the model's (log 13). -/
def Obligations.AcceptanceTakesTheLowestFreeEntry : Prop :=
  ∀ (s : State) (r : Request),
    (s.work ≠ none ∨ s.srstAsserted = true ∨ s.porstAsserted = true ∨ (∀ t : Tag, (s.track t).state ≠ .free) →
        exec (.requestAccept r) s = .next s)
      ∧ ∀ t : Tag, s.work = none → s.srstAsserted = false → s.porstAsserted = false → (s.track t).state = .free →
        (∀ u : Tag, u < t → (s.track u).state ≠ .free) →
        (r.address.extractLsb' 0 3 = 0 ∧ 1 ≤ r.beats ∧ (r.address.extractLsb' 3 3).toNat + r.beats ≤ 8 →
            exec (.requestAccept r) s
              = .next ((s.setTrack t
                  { s.track t with
                    state := .classifying, source := r.source, kind := r.kind, beats := r.beats }).setWork
                  (some { request := r, entry := t, stage := .lookup })))
          ∧ (r.address.extractLsb' 0 3 ≠ 0 ∨ r.beats = 0 ∨ (r.address.extractLsb' 3 3).toNat + r.beats > 8 →
            exec (.requestAccept r) s
              = .next (((s.setTrack t
                  { s.track t with
                    state := .held, source := r.source, kind := r.kind
                    buffer := some { status := .rejected, beats := [] } }).setOrder r.source
                  (s.order r.source ++ [t])).countAndRaise .rejects .reject))

/-- Forwarding and answering: the entry becomes FORWARDED, not sent, its ticks loaded from the response limit, or HELD
with the answer; it joins the tail of its source's list, and a forwarded request the send list. After the action comes
the STOP step of a STOP entry, then the retirement of a one-shot entry, then the end of the work. That the work ends only
after these steps, and not at the handing over, is the model's reading (log 19). -/
def Obligations.ForwardingAndAnsweringJoinTheLists : Prop :=
  ∀ (s : State) (w : Work) (g : Governor) (response : Response) (served : Bool),
    s.forward w
        = ((s.setTrack w.entry
            { s.track w.entry with
              state := .forwarded, slotServed := false, sent := false
              timer := if s.tracker.responseLimit = 0 then .unlimited else .running s.tracker.responseLimit }).setOrder
            (s.track w.entry).source (s.order (s.track w.entry).source ++ [w.entry])).setSendList
            (s.tracker.sendList ++ [{ entry := w.entry, request := w.request }])
      ∧ s.answerLocally w response served
        = (s.setTrack w.entry
            { s.track w.entry with state := .held, slotServed := served, buffer := some response }).setOrder
            (s.track w.entry).source (s.order (s.track w.entry).source ++ [w.entry])
      ∧ s.afterAction w g
        = s.setWork (if g.image.trigger = 0x02#8 then some { w with stage := .stop g }
            else if g.image.oneShot = 0x01#8 then some { w with stage := .retire g } else none)
      ∧ s.forwardAndGoOn w g = (s.forward w).afterAction w g

/-- CLASSIFY: outside ACTIVE, and with no governing entry, the request is forwarded and the work done; in ACTIVE the
governing entry's hit count rises, saturating, and the START step of a START entry or the action is next. That the steps
to come carry the entry's fields as the lookup found them is the model's reading (log 5). -/
def Obligations.ClassifyLooksUpOnlyInActive : Prop :=
  ∀ (s : State) (w : Work), s.work = some w → w.stage = .lookup →
    (s.mode ≠ .active ∨ s.governing w.request = none → exec .classify s = .next ((s.forward w).setWork none))
      ∧ ∀ (i : Fin 32) (g : Governor), s.mode = .active → s.governing w.request = some i →
          g = { index := i, image := (s.matchEntry i).image, renewed := false, stopIgnored := false } →
          exec .classify s
            = .next ((s.setMatch i
                { s.matchEntry i with
                  hits := if (s.matchEntry i).hits = 65535 then 65535 else (s.matchEntry i).hits + 1 }).setWork
                (some { w with stage := if g.image.trigger = 0x01#8 then .start g else .action g }))

/-- START_TRIGGER: in ACTIVE an ARMED session becomes RUNNING with its count kept, and any other session is unchanged;
in another mode no trigger is signalled; the action is next, and that it reads the mode anew is the model's choice where a
SET_MODE back to ACTIVE comes before it (log 29). STOP_TRIGGER: in ACTIVE a RUNNING session becomes
STOPPING with its count kept, or FROZEN with the cause raised if the count is 0, and any other session is unchanged;
in another mode no trigger is signalled; retirement or the end of the work is next. That the work ends only here is the
model's reading (log 19). A STOP trigger that fell together with the SESSION_ARM or SESSION_RUN that took the session out
of FROZEN is ignored (log 26). -/
def Obligations.TriggersStartAndStopTheSession : Prop :=
  (∀ (s : State) (w : Work) (g : Governor), s.work = some w → w.stage = .start g →
      (s.mode = .active → s.session.state = .armed →
          exec .startTrigger s
            = .next ((s.setWork (some { w with stage := .action g })).setSession { s.session with state := .running }))
        ∧ (s.mode ≠ .active ∨ s.session.state ≠ .armed →
          exec .startTrigger s = .next (s.setWork (some { w with stage := .action g }))))
    ∧ (∀ (s : State) (w : Work) (g : Governor) (t : State), s.work = some w → w.stage = .stop g →
          t = s.setWork (if g.image.oneShot = 0x01#8 then some { w with stage := .retire g } else none) →
          (s.mode = .active → g.stopIgnored = false → s.session.state = .running → s.session.remaining ≠ 0 →
              exec .stopTrigger s = .next (t.setSession { s.session with state := .stopping }))
            ∧ (s.mode = .active → g.stopIgnored = false → s.session.state = .running → s.session.remaining = 0 →
              exec .stopTrigger s = .next ((t.setSession { state := .frozen, remaining := 0 }).raise .frozen))
            ∧ (s.mode ≠ .active ∨ g.stopIgnored = true ∨ s.session.state ≠ .running → exec .stopTrigger s = .next t))

/-- WATCH_ACTION forwards in every mode; ONE_SHOT_RETIRE turns the governing entry OFF, fields and counts kept, and
ends the work; an entry enabled again since the lookup stays ON. That the action is read from the fields the lookup found
(log 5), and that the request is under classification until here (log 19), is the model's reading. -/
def Obligations.WatchForwardsAndOneShotRetires : Prop :=
  ∀ (s : State) (w : Work) (g : Governor), s.work = some w →
    (w.stage = .action g → g.image.action = 0x00#8 → exec .watchAction s = .next ((s.forward w).afterAction w g))
      ∧ (w.stage = .retire g → g.renewed = false → exec .oneShotRetire s
          = .next ((s.setMatch g.index { s.matchEntry g.index with state := .off }).setWork none))
      ∧ (w.stage = .retire g → g.renewed = true → exec .oneShotRetire s = .next (s.setWork none))

/-- CAPTURE_SLOT_ACTION: outside ACTIVE or with no record due the request is forwarded; with one due and the slot
TOOL-owned the miss count rises and the request is forwarded; with the slot UNIT-owned the record is made, its note
next. That the note, the link, the notice and the forward come in later rows is the model's reading (log 6), and so is that
action and slot are read from the fields the lookup found (logs 5 and 25). -/
def Obligations.CaptureSlotActionRecordsWhenDue : Prop :=
  ∀ (s : State) (w : Work) (g : Governor) (n : SlotId),
    s.work = some w → w.stage = .action g → g.image.action = 0x01#8 → g.image.captureSlot.toNat = n.val →
    (s.mode ≠ .active ∨ (s.session.state ≠ .running ∧ s.session.state ≠ .stopping) →
        exec .captureSlotAction s = .next ((s.forward w).afterAction w g))
      ∧ (s.mode = .active → s.session.state = .running ∨ s.session.state = .stopping →
        ((s.slot n).owner = .tool →
            exec .captureSlotAction s
              = .next (((s.setMatch g.index
                  { s.matchEntry g.index with
                    misses := if (s.matchEntry g.index).misses = 65535 then 65535
                      else (s.matchEntry g.index).misses + 1 }).forward w).afterAction w g))
          ∧ ((s.slot n).owner = .unit →
            exec .captureSlotAction s
              = .next ((s.createRecord n w.request true).setWork
                  (some { w with stage := .append g { slot := n, sequence := s.captureSeq } }))))

/-- HISTORY_APPEND adds the note at the newest end, a full history dropping its oldest note with HISTORY_LOSSES and
HISTORY_LOSS, and the record's link is placed in the Tracker entry; RECORD_NOTICE lowers the count in STOPPING, freezing
the session at 0, and the request is then forwarded. Which row holds the link and the forward is the model's (log 6), and
so is that neither row reads the mode (log 22) and that the note joins the list as it stands (log 23). -/
def Obligations.NoteAndNoticeOfARecord : Prop :=
  ∀ (s : State) (w : Work) (g : Governor), s.work = some w →
    (∀ note : Note, w.stage = .append g note →
        (s.history.length < 32 → exec .historyAppend s
            = .next ((State.setTrack { s with history := s.history ++ [note] } w.entry
                { s.track w.entry with link := some { slot := note.slot, sequence := note.sequence } }).setWork
                (some { w with stage := .notice g })))
          ∧ (32 ≤ s.history.length → exec .historyAppend s
            = .next (((State.countAndRaise .historyLosses .historyLoss
                { s with history := s.history.tail ++ [note] }).setTrack w.entry
                { s.track w.entry with link := some { slot := note.slot, sequence := note.sequence } }).setWork
                (some { w with stage := .notice g }))))
      ∧ (w.stage = .notice g →
        (s.session.state ≠ .stopping → exec .recordNotice s = .next ((s.forward w).afterAction w g))
          ∧ (s.session.state = .stopping → 2 ≤ s.session.remaining.toNat → exec .recordNotice s
            = .next (((s.setSession { s.session with remaining := s.session.remaining - 1 }).forward w).afterAction w g))
          ∧ (s.session.state = .stopping → s.session.remaining = 1 → exec .recordNotice s
            = .next ((((s.setSession { state := .frozen, remaining := 0 }).raise .frozen).forward w).afterAction w g)))

/-- CAPTURE_QUEUE_ACTION on a UNIT-owned run: outside ACTIVE or with no record due the request is forwarded; with room
the record is made at the next position and WATERMARK raised where the occupancy reaches the watermark; a full queue
drops the capture or replaces its oldest record, counted. That the row makes and links the record and leaves the notice and
the forward to RECORD_NOTICE is the model's reading (log 6), and so is that the action is read from the fields the lookup
found (log 5). An offer to an unconfigured queue is forwarded with nothing counted, which is the model's choice (log 24). A
queue slot that is TOOL-owned, which no run of the block reaches, takes no record (log 14). -/
def Obligations.CaptureQueueActionRecordsReplacesOrDrops : Prop :=
  ∀ (s : State) (w : Work) (g : Governor),
    s.work = some w → w.stage = .action g → g.image.action = 0x02#8 →
    (s.mode ≠ .active ∨ (s.session.state ≠ .running ∧ s.session.state ≠ .stopping) ∨ s.queue.count = 0 →
        exec .captureQueueAction s = .next ((s.forward w).afterAction w g))
      ∧ (s.mode = .active → s.session.state = .running ∨ s.session.state = .stopping →
        (∀ n : SlotId, s.queue.occupancy < s.queue.count →
            n.val = s.queue.first + (s.queue.oldest + s.queue.occupancy) % s.queue.count → (s.slot n).owner = .unit →
            ∀ made : State, made = (s.createRecord n w.request false).setQueue
              { s.queue with occupancy := s.queue.occupancy + 1 } →
            exec .captureQueueAction s
              = .next (((if s.queue.occupancy + 1 = s.queue.watermark then made.raise .watermark else made).setTrack
                  w.entry { s.track w.entry with link := some { slot := n, sequence := s.captureSeq } }).setWork
                  (some { w with stage := .notice g })))
          ∧ (∀ n : SlotId, s.queue.count ≠ 0 → s.queue.count ≤ s.queue.occupancy → s.queue.mode = .ring →
            n.val = s.queue.first + s.queue.oldest → (s.slot n).owner = .unit →
            exec .captureQueueAction s
              = .next (((((s.createRecord n w.request false).setQueue
                  { s.queue with oldest := (s.queue.oldest + 1) % s.queue.count }).countAndRaise .queueOverwrites
                  .queueLoss).setTrack w.entry
                  { s.track w.entry with link := some { slot := n, sequence := s.captureSeq } }).setWork
                  (some { w with stage := .notice g })))
          ∧ (∀ n : SlotId, s.queue.count ≠ 0 → s.queue.count ≤ s.queue.occupancy → s.queue.mode = .stopWhenFull →
            n.val = s.queue.first + s.queue.oldest → (s.slot n).owner = .unit →
            exec .captureQueueAction s
              = .next (((s.countAndRaise .queueDrops .queueLoss).forward w).afterAction w g))
          ∧ (∀ n : SlotId,
              n.val = s.queue.first + (if s.queue.occupancy < s.queue.count
                then (s.queue.oldest + s.queue.occupancy) % s.queue.count else s.queue.oldest) →
              (s.slot n).owner = .tool →
              exec .captureQueueAction s = .next ((s.forward w).afterAction w g)))

/-- The serving slot: run A where run B is ABSENT or the selector holds A, and run B otherwise, at the line of the
request; the selector is that of the entry's group. Served from it, a read takes its beats from the line, and a write puts
its enabled bytes into the line; the answer is DONE and slot-served. -/
def Obligations.OverlayRequestsAreServedFromTheirLine : Prop :=
  ∀ (s : State) (w : Work) (n : SlotId) (m : EntryImage) (named : Bank),
    (m.runLength.toNat ≤ 4 → ∀ (run : Byte), (run = m.runA ∧ (m.runB = 0 ∨ named = .a))
        ∨ (m.runB ≠ 0 ∧ named = .b ∧ run.toNat + 1 = m.runB.toNat) → run.toNat + 2 ^ m.runLength.toNat ≤ 64 →
        (servingSlotOf m named w.request).val
          = run.toNat + w.request.address.toNat / 64 % 2 ^ m.runLength.toNat)
      ∧ (m.group.toNat ≤ 3 → (groupOf m).val = m.group.toNat)
      ∧ (w.request.kind = .read → ∃ beats : List Beat,
          s.serve w n = s.answerLocally w { status := .done, beats := beats } true
            ∧ beats.length = w.request.beats
            ∧ ∀ (b j : Nat) (h : 8 * ((w.request.address.extractLsb' 3 3).toNat + b) + j < 64),
                b < w.request.beats → j < 8 →
                (beats.getD b 0).extractLsb' (8 * j) 8
                  = (s.slot n).data[8 * ((w.request.address.extractLsb' 3 3).toNat + b) + j])
      ∧ (w.request.kind = .write → ∃ image : Line,
          s.serve w n = (s.setSlot n { s.slot n with data := image }).answerLocally w { status := .done, beats := [] } true
            ∧ ∀ i : Fin 64,
                (∀ beat, (w.request.address.extractLsb' 3 3).toNat ≤ i.val / 8 →
                    i.val / 8 < (w.request.address.extractLsb' 3 3).toNat + w.request.beats →
                    w.request.write[i.val / 8 - (w.request.address.extractLsb' 3 3).toNat]? = some beat →
                    beat.enables.getLsbD (i.val % 8) = true → image[i] = beat.data.extractLsb' (8 * (i.val % 8)) 8)
                  ∧ ((∀ beat, (w.request.address.extractLsb' 3 3).toNat ≤ i.val / 8 →
                      i.val / 8 < (w.request.address.extractLsb' 3 3).toNat + w.request.beats →
                      w.request.write[i.val / 8 - (w.request.address.extractLsb' 3 3).toNat]? = some beat →
                      beat.enables.getLsbD (i.val % 8) = false) → image[i] = (s.slot n).data[i]))

/-- OVERLAY_ACTION by the table of kind, write policy, owner and fallback policy; outside ACTIVE the request is
forwarded. The fields of the entry, and the slot with them, are those its lookup found (logs 5 and 25). -/
def Obligations.OverlayActionFollowsTheTable : Prop :=
  ∀ (s : State) (w : Work) (g : Governor) (n : SlotId),
    s.work = some w → w.stage = .action g → g.image.action = 0x03#8 →
    n = servingSlotOf g.image s.banks[groupOf g.image] w.request →
    (s.mode ≠ .active ∨ (w.request.kind = .write ∧ g.image.writePolicy = 0x01#8) →
        exec .overlayAction s = .next ((s.forward w).afterAction w g))
      ∧ (s.mode = .active → w.request.kind = .read ∨ g.image.writePolicy ≠ 0x01#8 →
        ((s.slot n).owner = .unit → exec .overlayAction s = .next ((s.serve w n).afterAction w g))
          ∧ ((s.slot n).owner = .tool → g.image.fallback ≠ 0x01#8 → exec .overlayAction s
            = .next (((s.setMatch g.index
                { s.matchEntry g.index with
                  misses := if (s.matchEntry g.index).misses = 65535 then 65535
                    else (s.matchEntry g.index).misses + 1 }).forward w).afterAction w g))
          ∧ ((s.slot n).owner = .tool → g.image.fallback = 0x01#8 → exec .overlayAction s
            = .next (s.setWork (some { w with
                stage := .stalled g n (if s.tracker.stallLimit = 0 then .unlimited
                  else .running s.tracker.stallLimit) }))))

/-- A step of the Classifier's work is taken only where it is the next one: with no request under classification, with
another step next, or for an action row with an entry of another action, the row changes nothing. The spec gives these
rows no effect there, and that they are taken as no event is the model's choice (log 3). -/
def Obligations.StepsThatAreNotNextChangeNothing : Prop :=
  ∀ s : State,
    ((∀ w, s.work = some w → w.stage ≠ .lookup) → exec .classify s = .next s)
      ∧ ((∀ w g, s.work = some w → w.stage ≠ .start g) → exec .startTrigger s = .next s)
      ∧ ((∀ w g, s.work = some w → w.stage = .action g → g.image.action ≠ 0x00#8) → exec .watchAction s = .next s)
      ∧ ((∀ w g, s.work = some w → w.stage = .action g → g.image.action ≠ 0x01#8) →
          exec .captureSlotAction s = .next s)
      ∧ ((∀ w g, s.work = some w → w.stage = .action g → g.image.action ≠ 0x02#8) →
          exec .captureQueueAction s = .next s)
      ∧ ((∀ w g, s.work = some w → w.stage = .action g → g.image.action ≠ 0x03#8) → exec .overlayAction s = .next s)
      ∧ ((∀ w g note, s.work = some w → w.stage ≠ .append g note) → exec .historyAppend s = .next s)
      ∧ ((∀ w g, s.work = some w → w.stage ≠ .notice g) → exec .recordNotice s = .next s)
      ∧ ((∀ w g, s.work = some w → w.stage ≠ .stop g) → exec .stopTrigger s = .next s)
      ∧ ((∀ w g, s.work = some w → w.stage ≠ .retire g) → exec .oneShotRetire s = .next s)

/-- STALL_LIMIT_EXPIRY: a stall whose timer has run down is answered OVERLAY_UNAVAILABLE without the slot-served mark,
a miss and STALL_EXPIRIES with STALL_EXPIRED are counted, and the steps after the action follow. That these are steps
of their own (log 8), and that without such a stall nothing changes (logs 3 and 4), is the model's. -/
def Obligations.StallExpiryAnswersOverlayUnavailable : Prop :=
  ∀ s : State,
    (∀ w g n, s.stall = some (w, g, n, .expiryDue) →
        exec .stallLimitExpiry s
          = .next (((((s.answerLocally w { status := .overlayUnavailable, beats := [] } false).setMatch g.index
              { s.matchEntry g.index with
                misses := if (s.matchEntry g.index).misses = 65535 then 65535
                  else (s.matchEntry g.index).misses + 1 }).countAndRaise .stallExpiries .stallExpired).afterAction w g)))
      ∧ ((∀ w g n timer, s.stall = some (w, g, n, timer) → timer ≠ .expiryDue) → exec .stallLimitExpiry s = .next s)

/-! ### The memory path -/

/-- MPORT_SEND passes the oldest request of the send list with its tag and without its source ID, and marks its entry
sent; with an empty list nothing is passed (log 3). That a request is passed also where a tick has brought its entry's limit
to its end and the expiry row has not come (log 4), and that the last request passed is kept (log 12), is the model's. -/
def Obligations.MportSendPassesTheOldestRequest : Prop :=
  ∀ s : State,
    (s.tracker.sendList = [] → exec .mportSend s = .next s)
      ∧ ∀ item rest, s.tracker.sendList = item :: rest → exec .mportSend s
          = .next { (s.setTrack item.entry { s.track item.entry with sent := true }).setSendList rest with
              mportRequest := some
                { tag := item.entry, kind := item.request.kind, address := item.request.address
                  beats := item.request.beats, write := item.request.write } }

/-- MEMORY_RESPONSE completes a FORWARDED entry whose request was sent: closing access, timer discarded, buffer
filled, HELD, a fault counted; a late response clears the orphan mark or frees the entry; any other response is a
stray. A response limit that a tick has brought to its end expires first, and the response then meets what that leaves (log
4). Which fields an entry keeps when it becomes FREE, and that a HELD one has no ticks left (log 13), and what the fill makes
of the record of another request with more beats (log 30), is the model's. -/
def Obligations.MemoryResponsesCompleteLateOrStray : Prop :=
  ∀ (s : State) (tag : Tag) (beats taken : List Beat) (e : TrackerEntry) (status : MemStatus),
    s.porstAsserted = false → e = s.track tag → taken = (List.range e.beats).map (fun i => beats.getD i 0) →
    (∀ t, exec (.responseLimitExpiry tag) s = .next t →
        exec (.memoryResponse tag status beats) s = exec (.memoryResponse tag status beats) t)
      ∧ (e.state = .forwarded → e.sent = true → e.timer ≠ .expiryDue →
        (status = .done → exec (.memoryResponse tag status beats) s
            = .next ((s.closeLink e.link (closeByResponse e.kind .done taken)).setTrack tag
                { e with
                  state := .held, link := none, slotServed := false, timer := .unlimited
                  buffer := some { status := .done, beats := if e.kind = .read then taken else [] } }))
          ∧ (status = .fault → exec (.memoryResponse tag status beats) s
            = .next (((s.closeLink e.link fun sl => { sl with outcome := .memFault }).setTrack tag
                { e with
                  state := .held, link := none, slotServed := false, timer := .unlimited
                  buffer := some { status := .memoryFault, beats := [] } }).countAndRaise .memoryFaults .memoryFault)))
      ∧ (e.state = .held → e.orphan = true → exec (.memoryResponse tag status beats) s
          = .next ((s.setTrack tag { e with orphan := false }).count .lateResponses))
      ∧ (e.state = .orphaned → exec (.memoryResponse tag status beats) s
          = .next ((s.setTrack tag
              { e with
                state := .free, link := none, slotServed := false, orphan := false, buffer := none
                timer := .unlimited }).count .lateResponses))
      ∧ (e.state = .free ∨ e.state = .classifying ∨ (e.state = .held ∧ e.orphan = false)
            ∨ (e.state = .forwarded ∧ e.sent = false ∧ e.timer ≠ .expiryDue) →
          exec (.memoryResponse tag status beats) s = .next (s.count .strayResponses))

/-- RESPONSE_LIMIT_EXPIRY: the expiry due of a FORWARDED entry closes its record, answers NO_ANSWER, counted, and
leaves the entry HELD, with the orphan mark if it was sent and off the send list if it was not. That with none due
nothing changes (logs 3 and 4), and that the HELD entry has no ticks left (log 13), is the model's. -/
def Obligations.ResponseExpiryAnswersNoAnswer : Prop :=
  ∀ (s : State) (tag : Tag) (e : TrackerEntry), e = s.track tag →
    (e.state = .forwarded → e.timer = .expiryDue →
        exec (.responseLimitExpiry tag) s
          = .next ((((s.closeLink e.link fun sl => { sl with outcome := .memFault }).setTrack tag
              { e with
                state := .held, link := none, orphan := e.sent, timer := .unlimited
                buffer := some { status := .noAnswer, beats := [] } }).setSendList
              (if e.sent = true then s.tracker.sendList
                else s.tracker.sendList.filter fun item => item.entry != tag)).countAndRaise .noAnswers .noAnswer))
      ∧ (e.state ≠ .forwarded ∨ e.timer ≠ .expiryDue → exec (.responseLimitExpiry tag) s = .next s)

/-- ARBITER_GRANT: of the sources whose list head is HELD, the first after the pointer is granted; its response is
sent, the entry leaves its list and becomes ORPHANED or FREE, cleared, the pointer takes the source, and a drain whose
last slot-served entry this was completes. With no head ready nothing is sent (log 3). Which fields an entry keeps
when it leaves is the model's (log 13). -/
def Obligations.ArbiterGrantsTheNextReadySource : Prop :=
  ∀ s : State,
    ((∀ (src : SourceId) (t : Tag) (rest : List Tag), s.order src = t :: rest → (s.track t).state ≠ .held) →
        exec .arbiterGrant s = .next s)
      ∧ ∀ (src : SourceId) (t : Tag) (rest : List Tag) (e : TrackerEntry) (b : Response),
        s.order src = t :: rest → e = s.track t → e.state = .held → e.buffer = some b → e.source = src →
        (∀ (other : SourceId) (u : Tag) (tail : List Tag), other ≠ src → s.order other = u :: tail →
            (s.track u).state = .held →
            (src.val + 63 - s.tracker.pointer.val) % 64 < (other.val + 63 - s.tracker.pointer.val) % 64) →
        ∃ sent : State,
          sent = { (s.setTrack t
              { e with
                state := if e.orphan = true then .orphaned else .free
                link := none, slotServed := false, orphan := false, buffer := none
                timer := .unlimited }).setOrder src rest with
              sportResponse := some { source := src, status := b.status, beats := b.beats } }
            ∧ exec .arbiterGrant s
              = .next (State.slotServedLeft { sent with tracker := { sent.tracker with pointer := src } } e.slotServed)
            ∧ ∀ x : State, State.slotServedLeft x false = x
              ∧ (x.mode ≠ .draining ∨ (∃ u : Tag, (x.track u).slotServed = true) → x.slotServedLeft true = x)
              ∧ (x.mode = .draining → (∀ u : Tag, (x.track u).slotServed = false) →
                  x.slotServedLeft true = (x.setMode .bypass).raise .drainDone)

/-- SRST: every entry is FREE and cleared, every list empty, the pointer 63; the request under classification is gone
and a one-shot entry that governed it OFF; a drain completes with DRAIN_DONE; linked records that pass the check are
ABANDONED; no counter rises, and everything outside the path is kept. Limits that a tick has brought to their end expire
first (log 4). A one-shot entry enabled again since the lookup stays ON. That the one-shot entry turns OFF when no stall
holds the request (log 7), and which fields an entry keeps (log 13), is the model's. -/
def Obligations.SrstResetsThePathAndKeepsTheRest : Prop :=
  (∀ s : State, exec .srst s = exec .srst s.afterExpiries)
    ∧ ∀ s : State, s.NoExpiryDue → ∃ t : State, exec .srst s = .next t
    ∧ (∀ e : Tag, t.track e
        = { s.track e with
            state := .free, link := none, slotServed := false, orphan := false, buffer := none, timer := .unlimited })
    ∧ (∀ src : SourceId, t.order src = []) ∧ t.tracker.sendList = [] ∧ t.tracker.pointer = 63
    ∧ t.tracker.responseLimit = s.tracker.responseLimit ∧ t.tracker.stallLimit = s.tracker.stallLimit
    ∧ t.work = none ∧ t.srstAsserted = true
    ∧ (s.mode = .draining → t.mode = .bypass ∧ t.alerts = (s.raise .drainDone).alerts)
    ∧ (s.mode ≠ .draining → t.mode = s.mode ∧ t.alerts = s.alerts)
    ∧ (∀ n : SlotId,
        ((∃ (e : Tag) (l : CaptureLink), (s.track e).link = some l ∧ l.slot = n ∧ (s.slot n).owner = .unit
              ∧ (s.slot n).record = .held ∧ (s.slot n).sequence = l.sequence ∧ (s.slot n).outcome = .pending) →
            t.slot n = { s.slot n with outcome := .abandoned })
          ∧ ((∀ (e : Tag) (l : CaptureLink), (s.track e).link = some l → l.slot = n →
              ¬ ((s.slot n).owner = .unit ∧ (s.slot n).record = .held ∧ (s.slot n).sequence = l.sequence
                ∧ (s.slot n).outcome = .pending)) → t.slot n = s.slot n))
    ∧ (∀ i : Fin 32,
        ((∃ (w : Work) (g : Governor), s.work = some w ∧ w.stage.governor = some g ∧ g.index = i
              ∧ g.image.oneShot = 0x01#8 ∧ g.renewed = false) → t.matchEntry i = { s.matchEntry i with state := .off })
          ∧ ((∀ (w : Work) (g : Governor), s.work = some w → w.stage.governor = some g → g.index = i →
              g.image.oneShot ≠ 0x01#8 ∨ g.renewed = true) → t.matchEntry i = s.matchEntry i))
    ∧ t.captureSeq = s.captureSeq ∧ t.history = s.history ∧ t.queue = s.queue ∧ t.banks = s.banks
    ∧ t.session = s.session ∧ t.timeBase = s.timeBase ∧ t.toolLink = s.toolLink
    ∧ t.porstAsserted = s.porstAsserted ∧ t.pending = s.pending
    ∧ exec .srstRelease s = .next { s with srstAsserted := false }

/-! ### What every step keeps -/

/-- The state after PORST has every invariant stated below. -/
def Obligations.ResetHasEveryInvariant : Prop :=
  State.reset.HistoryBounded ∧ State.reset.TimeBaseLegal ∧ State.reset.SessionLegal ∧ State.reset.QueueLegal
    ∧ State.reset.QueueRunUnitOwned ∧ State.reset.EntriesChecked ∧ State.reset.RecordsLegal ∧ State.reset.TrackerLegal
    ∧ State.reset.ModeLegal

/-- Every step keeps the history within 32 notes, the Time Base, the session and the queue within their ranges, and
each record within its line. -/
def Obligations.EveryStepKeepsTheRanges : Prop :=
  KeptByEveryStep State.HistoryBounded ∧ KeptByEveryStep State.TimeBaseLegal ∧ KeptByEveryStep State.SessionLegal
    ∧ KeptByEveryStep State.QueueLegal ∧ KeptByEveryStep State.RecordsLegal

/-- Every step keeps every slot of the configured queue run UNIT-owned, and every ON entry checked: no slot is named
by two ON entries or lies in the queue run too, and an ON CAPTURE_QUEUE entry has a configured queue. -/
def Obligations.EveryStepKeepsTheSlotsApart : Prop :=
  KeptByEveryStep State.QueueRunUnitOwned ∧ KeptByEveryStep State.EntriesChecked

/-- Every step keeps the Tracker as chapter 8 describes it: entries legal for their state, one CLASSIFYING entry at
most, the order lists and the send list holding exactly the entries they should, each once. -/
def Obligations.EveryStepKeepsTheTrackerLegal : Prop :=
  KeptByEveryStep State.TrackerLegal

/-- Every step that starts from a legal Tracker keeps the mode legal: no slot-served answer is held in BYPASS, one is
in DRAINING, and a stall lasts only in ACTIVE. -/
def Obligations.EveryStepKeepsTheModeLegal : Prop :=
  ∀ s t : State, s.TrackerLegal → s.ModeLegal → step s = .next t → t.ModeLegal

/-- Responses of one source leave in acceptance order. A step leaves an order list as it is, adds at its tail one entry of
its source, that of the request under classification or of a request rejected at acceptance, sends the response of its head
and takes that off, or, at a reset, empties it. A response is sent at the S-port only by ARBITER_GRANT, and only that of
the head of a list, which then leaves it. That the last response sent is kept, and none after PORST, is the model's choice
(log 12). -/
def Obligations.OrderListsAreFirstInFirstOut : Prop :=
  ∀ (c : Instr) (s t : State), exec c s = .next t → ∀ sends : SourceId → Tag → Prop,
    (∀ src e, sends src e ↔ c = .arbiterGrant ∧ s.order src = e :: t.order src ∧ (s.track e).state = .held
        ∧ t.sportResponse = (s.track e).buffer.map fun b =>
            { source := (s.track e).source, status := b.status, beats := b.beats }) →
    (∀ src : SourceId,
        t.order src = s.order src
          ∨ (∃ e : Tag, t.order src = s.order src ++ [e] ∧ (t.track e).source = src
              ∧ ((∃ w, s.work = some w ∧ w.entry = e)
                ∨ ∃ r, c = .requestAccept r ∧ acceptable r = false ∧ r.source = src ∧ s.lowestFree = some e))
          ∨ (∃ e : Tag, sends src e)
          ∨ ((c = .srst ∨ c = .porst) ∧ t.order src = []))
      ∧ (t.sportResponse = s.sportResponse ∨ (∃ (src : SourceId) (e : Tag), sends src e)
          ∨ (c = .porst ∧ t.sportResponse = none))

/-- The data area of a slot that is TOOL-owned and stays so is written by WRITE_SLOT of that slot alone. -/
def Obligations.OnlyTheToolWritesAToolOwnedSlot : Prop :=
  ∀ (c : Instr) (s t : State) (n : SlotId), exec c s = .next t → (s.slot n).owner = .tool → (t.slot n).owner = .tool →
    (t.slot n).data = (s.slot n).data
      ∨ ∃ (seq slot offset length : Byte) (data : Line), c = .writeSlot seq slot offset length data ∧ slot.toNat = n.val

/-- WRITE_SLOT leaves a UNIT-owned slot as it is, and the capture sequence counter changes only with a record made, in the
capture slot of the governing entry or at the queue's next or oldest position, which takes the number it held, or at PORST
and CLEAR_UNIT, which set it to 0. -/
def Obligations.CaptureNumbersAreTakenByRecordsAlone : Prop :=
  (∀ (s t : State) (n : SlotId) (seq slot offset length : Byte) (data : Line), (s.slot n).owner = .unit →
      exec (.writeSlot seq slot offset length data) s = .next t → t.slot n = s.slot n)
    ∧ ∀ (c : Instr) (s t : State), exec c s = .next t →
        t.captureSeq = s.captureSeq
          ∨ ((c = .captureSlotAction ∨ c = .captureQueueAction) ∧ t.captureSeq = s.captureSeq + 1
              ∧ ∃ (w : Work) (g : Governor) (n : SlotId), s.work = some w ∧ w.stage = .action g
                ∧ n.val = (if c = .captureSlotAction then g.image.captureSlot.toNat
                    else s.queue.first + if s.queue.occupancy < s.queue.count
                      then (s.queue.oldest + s.queue.occupancy) % s.queue.count else s.queue.oldest) % 64
                ∧ (t.slot n).record = .held ∧ (t.slot n).sequence = s.captureSeq ∧ (t.slot n).outcome = .pending)
          ∨ ((c = .porst ∨ ∃ seq, c = .clearUnit seq) ∧ t.captureSeq = 0)

/-- The events of the path and of time leave the Tool Link as it is, and the Tool Link's own rows and its reading
commands leave everything but the Link, and for a fault the alerts, as it is. -/
def Obligations.PathAndLinkTouchOnlyTheirOwn : Prop :=
  (∀ (c : Instr) (s t : State), exec c s = .next t → commandFields c = none → c ≠ .porst → c ≠ .resync →
      (∀ low, c ≠ .porstRelease low) → (∀ p, c ≠ .linkFault p) → (∀ code seq, c ≠ .duplicate code seq) →
      t.toolLink = s.toolLink)
    ∧ (∀ (c : Instr) (s t : State) (seq : Byte), exec c s = .next t →
        (c = .resync ∨ c = .nop seq ∨ (∃ code, c = .duplicate code seq ∨ c = .unknownCommand code seq)
          ∨ c = .getStatus seq ∨ (∃ index, c = .readEntry seq index) ∨ (∃ slot, c = .readSlot seq slot)
          ∨ c = .readCounters seq) →
        t = { s with toolLink := t.toolLink })
    ∧ ∀ (s t : State) (p : Period), exec (.linkFault p) s = .next t →
        t = { s with toolLink := t.toolLink, alerts := t.alerts } ∧ t.toolLink.stored = s.toolLink.stored
end

