-- ==== Sys2Proof/Laws/Lookup.lean ====
section
/-! SUPPORT. Spec lemmas of the look-ups, tests and codings that the meanings share. -/

namespace Sys2Proof.Machine

/-! ### Searches -/

/-- The first index that passes a test is the lowest that does. -/
theorem find_finRange {n : Nat} (p : Fin n → Bool) (i : Fin n) :
    (List.finRange n).find? p = some i ↔ p i = true ∧ ∀ j < i, p j = false := by
  rw [List.find?_eq_some_iff_getElem]
  constructor
  · rintro ⟨h, k, hk, rfl, hlt⟩
    refine ⟨h, fun j hj => ?_⟩
    have := hlt j.val (by simpa [Fin.lt_def] using hj)
    simpa using this
  · rintro ⟨h, hlt⟩
    refine ⟨h, i.val, by simp, by simp, fun j hj => ?_⟩
    have := hlt ⟨j, by omega⟩ (by simpa [Fin.lt_def] using hj)
    simpa using this

/-- Some entry carries the slot-served mark (R31). -/
theorem anySlotServed_iff (s : State) : s.anySlotServed = true ↔ ∃ t : Tag, (s.track t).slotServed = true := by
  unfold State.anySlotServed State.track
  simp only [List.any_eq_true, Vector.mem_toList_iff, Vector.mem_iff_getElem]
  constructor
  · rintro ⟨e, ⟨i, hi, rfl⟩, he⟩
    exact ⟨⟨i, hi⟩, he⟩
  · rintro ⟨t, ht⟩
    exact ⟨_, ⟨t.val, t.isLt, rfl⟩, ht⟩

/-- No entry carries the slot-served mark (R31). -/
theorem anySlotServed_eq_false (s : State) : s.anySlotServed = false ↔ ∀ t : Tag, (s.track t).slotServed = false := by
  rw [← Bool.not_eq_true, anySlotServed_iff]
  simp

/-- Some entry of the table passes a test. -/
theorem any_table (s : State) (p : MatchEntry → Bool) :
    s.table.toList.any p = true ↔ ∃ i : Fin 32, p (s.matchEntry i) = true := by
  unfold State.matchEntry
  simp only [List.any_eq_true, Vector.mem_toList_iff, Vector.mem_iff_getElem]
  constructor
  · rintro ⟨e, ⟨i, hi, rfl⟩, he⟩
    exact ⟨⟨i, hi⟩, he⟩
  · rintro ⟨t, ht⟩
    exact ⟨_, ⟨t.val, t.isLt, rfl⟩, ht⟩

/-! ### Runs of slots -/

theorem mem_runSlots (first lines n : Nat) : n ∈ runSlots first lines ↔ first ≤ n ∧ n < first + lines := by
  unfold runSlots
  simp only [List.mem_map, List.mem_range]
  constructor
  · rintro ⟨a, h, rfl⟩
    omega
  · rintro ⟨a, h⟩
    exact ⟨n - first, by omega, by omega⟩

theorem any_runSlots (first lines : Nat) (p : Nat → Bool) :
    (runSlots first lines).any p = true ↔ ∃ n, first ≤ n ∧ n < first + lines ∧ p n = true := by
  simp only [List.any_eq_true, mem_runSlots, and_assoc]

theorem all_runSlots (first lines : Nat) (p : Nat → Bool) :
    (runSlots first lines).all p = true ↔ ∀ n, first ≤ n → n < first + lines → p n = true := by
  simp only [List.all_eq_true, mem_runSlots, and_imp]

/-- A run length in range is a power of two (11.4). -/
theorem linesOf_eq_pow (b : Byte) (h : b.toNat ≤ 4) : linesOf b = 2 ^ b.toNat := by
  unfold linesOf
  have : b.toNat = 0 ∨ b.toNat = 1 ∨ b.toNat = 2 ∨ b.toNat = 3 ∨ b.toNat = 4 := by omega
  rcases this with h | h | h | h | h <;> simp [h]

/-- Run B is ABSENT exactly where its byte is zero (R178). -/
theorem runBFirst_eq_none (m : EntryImage) : runBFirst m = none ↔ m.runB = 0#8 := by
  unfold runBFirst
  split <;> simp_all

/-! ### Value codes -/

theorem actionOf_eq_watch (b : Byte) : actionOf b = some .watch ↔ b = 0#8 := by revert b; decide
theorem actionOf_eq_captureSlot (b : Byte) : actionOf b = some .captureSlot ↔ b = 1#8 := by revert b; decide
theorem actionOf_eq_captureQueue (b : Byte) : actionOf b = some .captureQueue ↔ b = 2#8 := by revert b; decide
theorem actionOf_eq_overlay (b : Byte) : actionOf b = some .overlay ↔ b = 3#8 := by revert b; decide
theorem actionOf_isNone (b : Byte) : (actionOf b).isNone = true ↔ 3 < b.toNat := by revert b; decide
theorem queueModeOf_isSome (b : Byte) : (queueModeOf b).isSome = true ↔ b.toNat ≤ 1 := by revert b; decide

/-! ### Bytes -/

/-- The two bytes of a half word, as shifts (1.6). -/
theorem leBytes_two (x : BitVec 16) : leBytes 2 x = [x.setWidth 8, (x >>> 8).setWidth 8] := by
  have h0 : byteAt x 0 = x.setWidth 8 := by
    apply BitVec.eq_of_getLsbD_eq
    intro i hi
    simp [byteAt, hi]
  have h1 : byteAt x 1 = (x >>> 8).setWidth 8 := by
    apply BitVec.eq_of_getLsbD_eq
    intro i hi
    simp [byteAt, hi]
  show [byteAt x 0, byteAt x 1] = _
  rw [h0, h1]

/-- A half word is its two bytes (1.6). -/
theorem byteAt_append_two (x : BitVec 16) : byteAt x 1 ++ byteAt x 0 = x := by
  apply BitVec.eq_of_getLsbD_eq
  intro i hi
  simp only [byteAt, BitVec.getLsbD_append, BitVec.getLsbD_extractLsb']
  split
  · rename_i h
    simp [h]
  · rename_i h
    have h8 : i - 8 < 8 := by omega
    have hi8 : 8 * 1 + (i - 8) = i := by omega
    simp only [h8, decide_true, Bool.true_and, hi8]

/-- A stamp is its four bytes (1.6). -/
theorem byteAt_append_four (x : BitVec 32) : byteAt x 3 ++ byteAt x 2 ++ byteAt x 1 ++ byteAt x 0 = x := by
  apply BitVec.eq_of_getLsbD_eq
  intro i hi
  simp only [byteAt, BitVec.getLsbD_append, BitVec.getLsbD_extractLsb']
  interval_cases i <;> simp

/-! ### Matching -/

/-- The address test on one beat, bit by bit (R5). -/
theorem beatAgrees_iff (m : EntryImage) (a : Address) :
    beatAgrees m a = true
      ↔ ∀ k, 3 ≤ k → k < 40 → m.careMask.getLsbD k = true → a.getLsbD k = m.base.getLsbD k := by
  have hmask : ∀ k, k < 40 → (0xFFFFFFFFF8#40).getLsbD k = decide (3 ≤ k) := by decide
  have hzero : ∀ x : BitVec 40, x = 0#40 ↔ ∀ k, k < 40 → x.getLsbD k = false := by
    intro x
    constructor
    · rintro rfl
      simp
    · intro h
      apply BitVec.eq_of_getLsbD_eq
      intro i hi
      rw [h i hi]
      simp
  unfold beatAgrees
  rw [beq_iff_eq, hzero]
  constructor
  · intro h k h3 h40 hc
    have := h k h40
    simp only [BitVec.getLsbD_and, BitVec.getLsbD_xor, hc, hmask k h40, h3, decide_true, Bool.and_true] at this
    simpa using this
  · intro h k hk
    simp only [BitVec.getLsbD_and, BitVec.getLsbD_xor, hmask k hk]
    by_cases h3 : 3 ≤ k
    · cases hc : m.careMask.getLsbD k
      · simp
      · simp [h k h3 hk hc]
    · simp [h3]

/-- The source test, bit by bit (R4). -/
theorem sourceTest_iff (m : EntryImage) (r : Request) :
    sourceTest m r = true
      ↔ ∀ k, k < 6 → m.sourceMask.getLsbD k = true → r.source.val.testBit k = m.sourceRef.getLsbD k := by
  have hmask : ∀ k, k < 8 → (0x3F#8).getLsbD k = decide (k < 6) := by decide
  have hbit : ∀ k, k < 8 → (BitVec.ofNat 8 r.source.val).getLsbD k = r.source.val.testBit k := by
    intro k hk
    rw [BitVec.getLsbD_ofNat]
    simp [hk]
  have hzero : ∀ x : BitVec 8, x = 0#8 ↔ ∀ k, k < 8 → x.getLsbD k = false := by
    intro x
    constructor
    · rintro rfl
      simp
    · intro h
      apply BitVec.eq_of_getLsbD_eq
      intro i hi
      rw [h i hi]
      simp
  unfold sourceTest
  rw [beq_iff_eq, hzero]
  constructor
  · intro h k h6 hc
    have := h k (by omega)
    simp only [BitVec.getLsbD_and, BitVec.getLsbD_xor, hc, hmask k (by omega), h6, decide_true, Bool.and_true,
      hbit k (by omega)] at this
    simpa using this
  · intro h k hk
    simp only [BitVec.getLsbD_and, BitVec.getLsbD_xor, hmask k hk, hbit k hk]
    by_cases h6 : k < 6
    · cases hc : m.sourceMask.getLsbD k
      · simp
      · simp [h k h6 hc]
    · simp [h6]

/-! ### The Classifier's work -/

/-- The stall is the work whose stage is the stall (R102). -/
theorem stall_eq_some (s : State) (w : Work) (g : Governor) (n : SlotId) (timer : LimitTimer) :
    s.stall = some (w, g, n, timer) ↔ s.work = some w ∧ w.stage = .stalled g n timer := by
  unfold State.stall
  cases hw : s.work with
  | none => simp
  | some v =>
    obtain ⟨r, t, st⟩ := v
    cases st <;> simp
    all_goals
      intro h
      subst h
      simp

/-- After the STOP step comes the retirement of a one-shot entry, or the end of the work (R25). -/
theorem afterStop_eq (s : State) (w : Work) (g : Governor) :
    s.afterStop w g = s.setWork (if g.image.oneShot = 1#8 then some { w with stage := .retire g } else none) := by
  unfold State.afterStop isOneShot
  by_cases h : g.image.oneShot = 1#8 <;> simp [h]

/-- After the action comes the STOP step of a STOP entry, and otherwise what comes after that step (R25). -/
theorem afterAction_eq (s : State) (w : Work) (g : Governor) :
    s.afterAction w g
      = s.setWork (if g.image.trigger = 2#8 then some { w with stage := .stop g }
          else if g.image.oneShot = 1#8 then some { w with stage := .retire g } else none) := by
  unfold State.afterAction isStop
  rw [afterStop_eq]
  by_cases h : g.image.trigger = 2#8 <;> simp [h]

end Sys2Proof.Machine
end

