-- ==== Sys2Proof/Laws/State.lean ====
section
/-! SUPPORT. What each basic update leaves and what it sets, field by field. -/

namespace Sys2Proof.Machine.State

variable (s : State)

/-! ### `setMatch` -/

@[simp] theorem setMatch_mode (i : Fin 32) (e : MatchEntry) : (s.setMatch i e).mode = s.mode := rfl
@[simp] theorem setMatch_work (i : Fin 32) (e : MatchEntry) : (s.setMatch i e).work = s.work := rfl
@[simp] theorem setMatch_slots (i : Fin 32) (e : MatchEntry) : (s.setMatch i e).slots = s.slots := rfl
@[simp] theorem setMatch_captureSeq (i : Fin 32) (e : MatchEntry) : (s.setMatch i e).captureSeq = s.captureSeq := rfl
@[simp] theorem setMatch_history (i : Fin 32) (e : MatchEntry) : (s.setMatch i e).history = s.history := rfl
@[simp] theorem setMatch_queue (i : Fin 32) (e : MatchEntry) : (s.setMatch i e).queue = s.queue := rfl
@[simp] theorem setMatch_banks (i : Fin 32) (e : MatchEntry) : (s.setMatch i e).banks = s.banks := rfl
@[simp] theorem setMatch_session (i : Fin 32) (e : MatchEntry) : (s.setMatch i e).session = s.session := rfl
@[simp] theorem setMatch_tracker (i : Fin 32) (e : MatchEntry) : (s.setMatch i e).tracker = s.tracker := rfl
@[simp] theorem setMatch_timeBase (i : Fin 32) (e : MatchEntry) : (s.setMatch i e).timeBase = s.timeBase := rfl
@[simp] theorem setMatch_alerts (i : Fin 32) (e : MatchEntry) : (s.setMatch i e).alerts = s.alerts := rfl
@[simp] theorem setMatch_toolLink (i : Fin 32) (e : MatchEntry) : (s.setMatch i e).toolLink = s.toolLink := rfl
@[simp] theorem setMatch_porstAsserted (i : Fin 32) (e : MatchEntry) : (s.setMatch i e).porstAsserted = s.porstAsserted := rfl
@[simp] theorem setMatch_srstAsserted (i : Fin 32) (e : MatchEntry) : (s.setMatch i e).srstAsserted = s.srstAsserted := rfl
@[simp] theorem setMatch_sportResponse (i : Fin 32) (e : MatchEntry) : (s.setMatch i e).sportResponse = s.sportResponse := rfl
@[simp] theorem setMatch_mportRequest (i : Fin 32) (e : MatchEntry) : (s.setMatch i e).mportRequest = s.mportRequest := rfl
@[simp] theorem setMatch_pending (i : Fin 32) (e : MatchEntry) : (s.setMatch i e).pending = s.pending := rfl
@[simp] theorem setMatch_slot (i : Fin 32) (e : MatchEntry) (num : SlotId) : (s.setMatch i e).slot num = s.slot num := rfl
@[simp] theorem setMatch_track (i : Fin 32) (e : MatchEntry) (u : Tag) : (s.setMatch i e).track u = s.track u := rfl
@[simp] theorem setMatch_order (i : Fin 32) (e : MatchEntry) (v : SourceId) : (s.setMatch i e).order v = s.order v := rfl

/-! ### `setSlot` -/

@[simp] theorem setSlot_table (n : SlotId) (sl : Slot) : (s.setSlot n sl).table = s.table := rfl
@[simp] theorem setSlot_mode (n : SlotId) (sl : Slot) : (s.setSlot n sl).mode = s.mode := rfl
@[simp] theorem setSlot_work (n : SlotId) (sl : Slot) : (s.setSlot n sl).work = s.work := rfl
@[simp] theorem setSlot_captureSeq (n : SlotId) (sl : Slot) : (s.setSlot n sl).captureSeq = s.captureSeq := rfl
@[simp] theorem setSlot_history (n : SlotId) (sl : Slot) : (s.setSlot n sl).history = s.history := rfl
@[simp] theorem setSlot_queue (n : SlotId) (sl : Slot) : (s.setSlot n sl).queue = s.queue := rfl
@[simp] theorem setSlot_banks (n : SlotId) (sl : Slot) : (s.setSlot n sl).banks = s.banks := rfl
@[simp] theorem setSlot_session (n : SlotId) (sl : Slot) : (s.setSlot n sl).session = s.session := rfl
@[simp] theorem setSlot_tracker (n : SlotId) (sl : Slot) : (s.setSlot n sl).tracker = s.tracker := rfl
@[simp] theorem setSlot_timeBase (n : SlotId) (sl : Slot) : (s.setSlot n sl).timeBase = s.timeBase := rfl
@[simp] theorem setSlot_alerts (n : SlotId) (sl : Slot) : (s.setSlot n sl).alerts = s.alerts := rfl
@[simp] theorem setSlot_toolLink (n : SlotId) (sl : Slot) : (s.setSlot n sl).toolLink = s.toolLink := rfl
@[simp] theorem setSlot_porstAsserted (n : SlotId) (sl : Slot) : (s.setSlot n sl).porstAsserted = s.porstAsserted := rfl
@[simp] theorem setSlot_srstAsserted (n : SlotId) (sl : Slot) : (s.setSlot n sl).srstAsserted = s.srstAsserted := rfl
@[simp] theorem setSlot_sportResponse (n : SlotId) (sl : Slot) : (s.setSlot n sl).sportResponse = s.sportResponse := rfl
@[simp] theorem setSlot_mportRequest (n : SlotId) (sl : Slot) : (s.setSlot n sl).mportRequest = s.mportRequest := rfl
@[simp] theorem setSlot_pending (n : SlotId) (sl : Slot) : (s.setSlot n sl).pending = s.pending := rfl
@[simp] theorem setSlot_matchEntry (n : SlotId) (sl : Slot) (j : Fin 32) : (s.setSlot n sl).matchEntry j = s.matchEntry j := rfl
@[simp] theorem setSlot_track (n : SlotId) (sl : Slot) (u : Tag) : (s.setSlot n sl).track u = s.track u := rfl
@[simp] theorem setSlot_order (n : SlotId) (sl : Slot) (v : SourceId) : (s.setSlot n sl).order v = s.order v := rfl

/-! ### `setTrack` -/

@[simp] theorem setTrack_table (t : Tag) (e : TrackerEntry) : (s.setTrack t e).table = s.table := rfl
@[simp] theorem setTrack_mode (t : Tag) (e : TrackerEntry) : (s.setTrack t e).mode = s.mode := rfl
@[simp] theorem setTrack_work (t : Tag) (e : TrackerEntry) : (s.setTrack t e).work = s.work := rfl
@[simp] theorem setTrack_slots (t : Tag) (e : TrackerEntry) : (s.setTrack t e).slots = s.slots := rfl
@[simp] theorem setTrack_captureSeq (t : Tag) (e : TrackerEntry) : (s.setTrack t e).captureSeq = s.captureSeq := rfl
@[simp] theorem setTrack_history (t : Tag) (e : TrackerEntry) : (s.setTrack t e).history = s.history := rfl
@[simp] theorem setTrack_queue (t : Tag) (e : TrackerEntry) : (s.setTrack t e).queue = s.queue := rfl
@[simp] theorem setTrack_banks (t : Tag) (e : TrackerEntry) : (s.setTrack t e).banks = s.banks := rfl
@[simp] theorem setTrack_session (t : Tag) (e : TrackerEntry) : (s.setTrack t e).session = s.session := rfl
@[simp] theorem setTrack_timeBase (t : Tag) (e : TrackerEntry) : (s.setTrack t e).timeBase = s.timeBase := rfl
@[simp] theorem setTrack_alerts (t : Tag) (e : TrackerEntry) : (s.setTrack t e).alerts = s.alerts := rfl
@[simp] theorem setTrack_toolLink (t : Tag) (e : TrackerEntry) : (s.setTrack t e).toolLink = s.toolLink := rfl
@[simp] theorem setTrack_porstAsserted (t : Tag) (e : TrackerEntry) : (s.setTrack t e).porstAsserted = s.porstAsserted := rfl
@[simp] theorem setTrack_srstAsserted (t : Tag) (e : TrackerEntry) : (s.setTrack t e).srstAsserted = s.srstAsserted := rfl
@[simp] theorem setTrack_sportResponse (t : Tag) (e : TrackerEntry) : (s.setTrack t e).sportResponse = s.sportResponse := rfl
@[simp] theorem setTrack_mportRequest (t : Tag) (e : TrackerEntry) : (s.setTrack t e).mportRequest = s.mportRequest := rfl
@[simp] theorem setTrack_pending (t : Tag) (e : TrackerEntry) : (s.setTrack t e).pending = s.pending := rfl
@[simp] theorem setTrack_matchEntry (t : Tag) (e : TrackerEntry) (j : Fin 32) : (s.setTrack t e).matchEntry j = s.matchEntry j := rfl
@[simp] theorem setTrack_slot (t : Tag) (e : TrackerEntry) (num : SlotId) : (s.setTrack t e).slot num = s.slot num := rfl
@[simp] theorem setTrack_order (t : Tag) (e : TrackerEntry) (v : SourceId) : (s.setTrack t e).order v = s.order v := rfl
@[simp] theorem setTrack_sendList (t : Tag) (e : TrackerEntry) : (s.setTrack t e).tracker.sendList = s.tracker.sendList := rfl
@[simp] theorem setTrack_pointer (t : Tag) (e : TrackerEntry) : (s.setTrack t e).tracker.pointer = s.tracker.pointer := rfl
@[simp] theorem setTrack_responseLimit (t : Tag) (e : TrackerEntry) : (s.setTrack t e).tracker.responseLimit = s.tracker.responseLimit := rfl
@[simp] theorem setTrack_stallLimit (t : Tag) (e : TrackerEntry) : (s.setTrack t e).tracker.stallLimit = s.tracker.stallLimit := rfl

/-! ### `setOrder` -/

@[simp] theorem setOrder_table (src : SourceId) (l : List Tag) : (s.setOrder src l).table = s.table := rfl
@[simp] theorem setOrder_mode (src : SourceId) (l : List Tag) : (s.setOrder src l).mode = s.mode := rfl
@[simp] theorem setOrder_work (src : SourceId) (l : List Tag) : (s.setOrder src l).work = s.work := rfl
@[simp] theorem setOrder_slots (src : SourceId) (l : List Tag) : (s.setOrder src l).slots = s.slots := rfl
@[simp] theorem setOrder_captureSeq (src : SourceId) (l : List Tag) : (s.setOrder src l).captureSeq = s.captureSeq := rfl
@[simp] theorem setOrder_history (src : SourceId) (l : List Tag) : (s.setOrder src l).history = s.history := rfl
@[simp] theorem setOrder_queue (src : SourceId) (l : List Tag) : (s.setOrder src l).queue = s.queue := rfl
@[simp] theorem setOrder_banks (src : SourceId) (l : List Tag) : (s.setOrder src l).banks = s.banks := rfl
@[simp] theorem setOrder_session (src : SourceId) (l : List Tag) : (s.setOrder src l).session = s.session := rfl
@[simp] theorem setOrder_timeBase (src : SourceId) (l : List Tag) : (s.setOrder src l).timeBase = s.timeBase := rfl
@[simp] theorem setOrder_alerts (src : SourceId) (l : List Tag) : (s.setOrder src l).alerts = s.alerts := rfl
@[simp] theorem setOrder_toolLink (src : SourceId) (l : List Tag) : (s.setOrder src l).toolLink = s.toolLink := rfl
@[simp] theorem setOrder_porstAsserted (src : SourceId) (l : List Tag) : (s.setOrder src l).porstAsserted = s.porstAsserted := rfl
@[simp] theorem setOrder_srstAsserted (src : SourceId) (l : List Tag) : (s.setOrder src l).srstAsserted = s.srstAsserted := rfl
@[simp] theorem setOrder_sportResponse (src : SourceId) (l : List Tag) : (s.setOrder src l).sportResponse = s.sportResponse := rfl
@[simp] theorem setOrder_mportRequest (src : SourceId) (l : List Tag) : (s.setOrder src l).mportRequest = s.mportRequest := rfl
@[simp] theorem setOrder_pending (src : SourceId) (l : List Tag) : (s.setOrder src l).pending = s.pending := rfl
@[simp] theorem setOrder_matchEntry (src : SourceId) (l : List Tag) (j : Fin 32) : (s.setOrder src l).matchEntry j = s.matchEntry j := rfl
@[simp] theorem setOrder_slot (src : SourceId) (l : List Tag) (num : SlotId) : (s.setOrder src l).slot num = s.slot num := rfl
@[simp] theorem setOrder_track (src : SourceId) (l : List Tag) (u : Tag) : (s.setOrder src l).track u = s.track u := rfl
@[simp] theorem setOrder_sendList (src : SourceId) (l : List Tag) : (s.setOrder src l).tracker.sendList = s.tracker.sendList := rfl
@[simp] theorem setOrder_pointer (src : SourceId) (l : List Tag) : (s.setOrder src l).tracker.pointer = s.tracker.pointer := rfl
@[simp] theorem setOrder_responseLimit (src : SourceId) (l : List Tag) : (s.setOrder src l).tracker.responseLimit = s.tracker.responseLimit := rfl
@[simp] theorem setOrder_stallLimit (src : SourceId) (l : List Tag) : (s.setOrder src l).tracker.stallLimit = s.tracker.stallLimit := rfl

/-! ### `setSendList` -/

@[simp] theorem setSendList_table (l : List SendItem) : (s.setSendList l).table = s.table := rfl
@[simp] theorem setSendList_mode (l : List SendItem) : (s.setSendList l).mode = s.mode := rfl
@[simp] theorem setSendList_work (l : List SendItem) : (s.setSendList l).work = s.work := rfl
@[simp] theorem setSendList_slots (l : List SendItem) : (s.setSendList l).slots = s.slots := rfl
@[simp] theorem setSendList_captureSeq (l : List SendItem) : (s.setSendList l).captureSeq = s.captureSeq := rfl
@[simp] theorem setSendList_history (l : List SendItem) : (s.setSendList l).history = s.history := rfl
@[simp] theorem setSendList_queue (l : List SendItem) : (s.setSendList l).queue = s.queue := rfl
@[simp] theorem setSendList_banks (l : List SendItem) : (s.setSendList l).banks = s.banks := rfl
@[simp] theorem setSendList_session (l : List SendItem) : (s.setSendList l).session = s.session := rfl
@[simp] theorem setSendList_timeBase (l : List SendItem) : (s.setSendList l).timeBase = s.timeBase := rfl
@[simp] theorem setSendList_alerts (l : List SendItem) : (s.setSendList l).alerts = s.alerts := rfl
@[simp] theorem setSendList_toolLink (l : List SendItem) : (s.setSendList l).toolLink = s.toolLink := rfl
@[simp] theorem setSendList_porstAsserted (l : List SendItem) : (s.setSendList l).porstAsserted = s.porstAsserted := rfl
@[simp] theorem setSendList_srstAsserted (l : List SendItem) : (s.setSendList l).srstAsserted = s.srstAsserted := rfl
@[simp] theorem setSendList_sportResponse (l : List SendItem) : (s.setSendList l).sportResponse = s.sportResponse := rfl
@[simp] theorem setSendList_mportRequest (l : List SendItem) : (s.setSendList l).mportRequest = s.mportRequest := rfl
@[simp] theorem setSendList_pending (l : List SendItem) : (s.setSendList l).pending = s.pending := rfl
@[simp] theorem setSendList_matchEntry (l : List SendItem) (j : Fin 32) : (s.setSendList l).matchEntry j = s.matchEntry j := rfl
@[simp] theorem setSendList_slot (l : List SendItem) (num : SlotId) : (s.setSendList l).slot num = s.slot num := rfl
@[simp] theorem setSendList_track (l : List SendItem) (u : Tag) : (s.setSendList l).track u = s.track u := rfl
@[simp] theorem setSendList_order (l : List SendItem) (v : SourceId) : (s.setSendList l).order v = s.order v := rfl
@[simp] theorem setSendList_pointer (l : List SendItem) : (s.setSendList l).tracker.pointer = s.tracker.pointer := rfl
@[simp] theorem setSendList_responseLimit (l : List SendItem) : (s.setSendList l).tracker.responseLimit = s.tracker.responseLimit := rfl
@[simp] theorem setSendList_stallLimit (l : List SendItem) : (s.setSendList l).tracker.stallLimit = s.tracker.stallLimit := rfl
@[simp] theorem setSendList_sendList (l : List SendItem) : (s.setSendList l).tracker.sendList = l := rfl

/-! ### `setWork` -/

@[simp] theorem setWork_table (w : Option Work) : (s.setWork w).table = s.table := rfl
@[simp] theorem setWork_mode (w : Option Work) : (s.setWork w).mode = s.mode := rfl
@[simp] theorem setWork_slots (w : Option Work) : (s.setWork w).slots = s.slots := rfl
@[simp] theorem setWork_captureSeq (w : Option Work) : (s.setWork w).captureSeq = s.captureSeq := rfl
@[simp] theorem setWork_history (w : Option Work) : (s.setWork w).history = s.history := rfl
@[simp] theorem setWork_queue (w : Option Work) : (s.setWork w).queue = s.queue := rfl
@[simp] theorem setWork_banks (w : Option Work) : (s.setWork w).banks = s.banks := rfl
@[simp] theorem setWork_session (w : Option Work) : (s.setWork w).session = s.session := rfl
@[simp] theorem setWork_tracker (w : Option Work) : (s.setWork w).tracker = s.tracker := rfl
@[simp] theorem setWork_timeBase (w : Option Work) : (s.setWork w).timeBase = s.timeBase := rfl
@[simp] theorem setWork_alerts (w : Option Work) : (s.setWork w).alerts = s.alerts := rfl
@[simp] theorem setWork_toolLink (w : Option Work) : (s.setWork w).toolLink = s.toolLink := rfl
@[simp] theorem setWork_porstAsserted (w : Option Work) : (s.setWork w).porstAsserted = s.porstAsserted := rfl
@[simp] theorem setWork_srstAsserted (w : Option Work) : (s.setWork w).srstAsserted = s.srstAsserted := rfl
@[simp] theorem setWork_sportResponse (w : Option Work) : (s.setWork w).sportResponse = s.sportResponse := rfl
@[simp] theorem setWork_mportRequest (w : Option Work) : (s.setWork w).mportRequest = s.mportRequest := rfl
@[simp] theorem setWork_pending (w : Option Work) : (s.setWork w).pending = s.pending := rfl
@[simp] theorem setWork_matchEntry (w : Option Work) (j : Fin 32) : (s.setWork w).matchEntry j = s.matchEntry j := rfl
@[simp] theorem setWork_slot (w : Option Work) (num : SlotId) : (s.setWork w).slot num = s.slot num := rfl
@[simp] theorem setWork_track (w : Option Work) (u : Tag) : (s.setWork w).track u = s.track u := rfl
@[simp] theorem setWork_order (w : Option Work) (v : SourceId) : (s.setWork w).order v = s.order v := rfl
@[simp] theorem setWork_work (w : Option Work) : (s.setWork w).work = w := rfl

/-! ### `setMode` -/

@[simp] theorem setMode_table (m : Mode) : (s.setMode m).table = s.table := rfl
@[simp] theorem setMode_work (m : Mode) : (s.setMode m).work = s.work := rfl
@[simp] theorem setMode_slots (m : Mode) : (s.setMode m).slots = s.slots := rfl
@[simp] theorem setMode_captureSeq (m : Mode) : (s.setMode m).captureSeq = s.captureSeq := rfl
@[simp] theorem setMode_history (m : Mode) : (s.setMode m).history = s.history := rfl
@[simp] theorem setMode_queue (m : Mode) : (s.setMode m).queue = s.queue := rfl
@[simp] theorem setMode_banks (m : Mode) : (s.setMode m).banks = s.banks := rfl
@[simp] theorem setMode_session (m : Mode) : (s.setMode m).session = s.session := rfl
@[simp] theorem setMode_tracker (m : Mode) : (s.setMode m).tracker = s.tracker := rfl
@[simp] theorem setMode_timeBase (m : Mode) : (s.setMode m).timeBase = s.timeBase := rfl
@[simp] theorem setMode_alerts (m : Mode) : (s.setMode m).alerts = s.alerts := rfl
@[simp] theorem setMode_toolLink (m : Mode) : (s.setMode m).toolLink = s.toolLink := rfl
@[simp] theorem setMode_porstAsserted (m : Mode) : (s.setMode m).porstAsserted = s.porstAsserted := rfl
@[simp] theorem setMode_srstAsserted (m : Mode) : (s.setMode m).srstAsserted = s.srstAsserted := rfl
@[simp] theorem setMode_sportResponse (m : Mode) : (s.setMode m).sportResponse = s.sportResponse := rfl
@[simp] theorem setMode_mportRequest (m : Mode) : (s.setMode m).mportRequest = s.mportRequest := rfl
@[simp] theorem setMode_pending (m : Mode) : (s.setMode m).pending = s.pending := rfl
@[simp] theorem setMode_matchEntry (m : Mode) (j : Fin 32) : (s.setMode m).matchEntry j = s.matchEntry j := rfl
@[simp] theorem setMode_slot (m : Mode) (num : SlotId) : (s.setMode m).slot num = s.slot num := rfl
@[simp] theorem setMode_track (m : Mode) (u : Tag) : (s.setMode m).track u = s.track u := rfl
@[simp] theorem setMode_order (m : Mode) (v : SourceId) : (s.setMode m).order v = s.order v := rfl
@[simp] theorem setMode_mode (m : Mode) : (s.setMode m).mode = m := rfl

/-! ### `setSession` -/

@[simp] theorem setSession_table (x : Session) : (s.setSession x).table = s.table := rfl
@[simp] theorem setSession_mode (x : Session) : (s.setSession x).mode = s.mode := rfl
@[simp] theorem setSession_work (x : Session) : (s.setSession x).work = s.work := rfl
@[simp] theorem setSession_slots (x : Session) : (s.setSession x).slots = s.slots := rfl
@[simp] theorem setSession_captureSeq (x : Session) : (s.setSession x).captureSeq = s.captureSeq := rfl
@[simp] theorem setSession_history (x : Session) : (s.setSession x).history = s.history := rfl
@[simp] theorem setSession_queue (x : Session) : (s.setSession x).queue = s.queue := rfl
@[simp] theorem setSession_banks (x : Session) : (s.setSession x).banks = s.banks := rfl
@[simp] theorem setSession_tracker (x : Session) : (s.setSession x).tracker = s.tracker := rfl
@[simp] theorem setSession_timeBase (x : Session) : (s.setSession x).timeBase = s.timeBase := rfl
@[simp] theorem setSession_alerts (x : Session) : (s.setSession x).alerts = s.alerts := rfl
@[simp] theorem setSession_toolLink (x : Session) : (s.setSession x).toolLink = s.toolLink := rfl
@[simp] theorem setSession_porstAsserted (x : Session) : (s.setSession x).porstAsserted = s.porstAsserted := rfl
@[simp] theorem setSession_srstAsserted (x : Session) : (s.setSession x).srstAsserted = s.srstAsserted := rfl
@[simp] theorem setSession_sportResponse (x : Session) : (s.setSession x).sportResponse = s.sportResponse := rfl
@[simp] theorem setSession_mportRequest (x : Session) : (s.setSession x).mportRequest = s.mportRequest := rfl
@[simp] theorem setSession_pending (x : Session) : (s.setSession x).pending = s.pending := rfl
@[simp] theorem setSession_matchEntry (x : Session) (j : Fin 32) : (s.setSession x).matchEntry j = s.matchEntry j := rfl
@[simp] theorem setSession_slot (x : Session) (num : SlotId) : (s.setSession x).slot num = s.slot num := rfl
@[simp] theorem setSession_track (x : Session) (u : Tag) : (s.setSession x).track u = s.track u := rfl
@[simp] theorem setSession_order (x : Session) (v : SourceId) : (s.setSession x).order v = s.order v := rfl
@[simp] theorem setSession_session (x : Session) : (s.setSession x).session = x := rfl

/-! ### `setQueue` -/

@[simp] theorem setQueue_table (q : Queue) : (s.setQueue q).table = s.table := rfl
@[simp] theorem setQueue_mode (q : Queue) : (s.setQueue q).mode = s.mode := rfl
@[simp] theorem setQueue_work (q : Queue) : (s.setQueue q).work = s.work := rfl
@[simp] theorem setQueue_slots (q : Queue) : (s.setQueue q).slots = s.slots := rfl
@[simp] theorem setQueue_captureSeq (q : Queue) : (s.setQueue q).captureSeq = s.captureSeq := rfl
@[simp] theorem setQueue_history (q : Queue) : (s.setQueue q).history = s.history := rfl
@[simp] theorem setQueue_banks (q : Queue) : (s.setQueue q).banks = s.banks := rfl
@[simp] theorem setQueue_session (q : Queue) : (s.setQueue q).session = s.session := rfl
@[simp] theorem setQueue_tracker (q : Queue) : (s.setQueue q).tracker = s.tracker := rfl
@[simp] theorem setQueue_timeBase (q : Queue) : (s.setQueue q).timeBase = s.timeBase := rfl
@[simp] theorem setQueue_alerts (q : Queue) : (s.setQueue q).alerts = s.alerts := rfl
@[simp] theorem setQueue_toolLink (q : Queue) : (s.setQueue q).toolLink = s.toolLink := rfl
@[simp] theorem setQueue_porstAsserted (q : Queue) : (s.setQueue q).porstAsserted = s.porstAsserted := rfl
@[simp] theorem setQueue_srstAsserted (q : Queue) : (s.setQueue q).srstAsserted = s.srstAsserted := rfl
@[simp] theorem setQueue_sportResponse (q : Queue) : (s.setQueue q).sportResponse = s.sportResponse := rfl
@[simp] theorem setQueue_mportRequest (q : Queue) : (s.setQueue q).mportRequest = s.mportRequest := rfl
@[simp] theorem setQueue_pending (q : Queue) : (s.setQueue q).pending = s.pending := rfl
@[simp] theorem setQueue_matchEntry (q : Queue) (j : Fin 32) : (s.setQueue q).matchEntry j = s.matchEntry j := rfl
@[simp] theorem setQueue_slot (q : Queue) (num : SlotId) : (s.setQueue q).slot num = s.slot num := rfl
@[simp] theorem setQueue_track (q : Queue) (u : Tag) : (s.setQueue q).track u = s.track u := rfl
@[simp] theorem setQueue_order (q : Queue) (v : SourceId) : (s.setQueue q).order v = s.order v := rfl
@[simp] theorem setQueue_queue (q : Queue) : (s.setQueue q).queue = q := rfl

/-! ### `setOutgoing` -/

@[simp] theorem setOutgoing_table (f : AnswerFrame) : (s.setOutgoing f).table = s.table := rfl
@[simp] theorem setOutgoing_mode (f : AnswerFrame) : (s.setOutgoing f).mode = s.mode := rfl
@[simp] theorem setOutgoing_work (f : AnswerFrame) : (s.setOutgoing f).work = s.work := rfl
@[simp] theorem setOutgoing_slots (f : AnswerFrame) : (s.setOutgoing f).slots = s.slots := rfl
@[simp] theorem setOutgoing_captureSeq (f : AnswerFrame) : (s.setOutgoing f).captureSeq = s.captureSeq := rfl
@[simp] theorem setOutgoing_history (f : AnswerFrame) : (s.setOutgoing f).history = s.history := rfl
@[simp] theorem setOutgoing_queue (f : AnswerFrame) : (s.setOutgoing f).queue = s.queue := rfl
@[simp] theorem setOutgoing_banks (f : AnswerFrame) : (s.setOutgoing f).banks = s.banks := rfl
@[simp] theorem setOutgoing_session (f : AnswerFrame) : (s.setOutgoing f).session = s.session := rfl
@[simp] theorem setOutgoing_tracker (f : AnswerFrame) : (s.setOutgoing f).tracker = s.tracker := rfl
@[simp] theorem setOutgoing_timeBase (f : AnswerFrame) : (s.setOutgoing f).timeBase = s.timeBase := rfl
@[simp] theorem setOutgoing_alerts (f : AnswerFrame) : (s.setOutgoing f).alerts = s.alerts := rfl
@[simp] theorem setOutgoing_porstAsserted (f : AnswerFrame) : (s.setOutgoing f).porstAsserted = s.porstAsserted := rfl
@[simp] theorem setOutgoing_srstAsserted (f : AnswerFrame) : (s.setOutgoing f).srstAsserted = s.srstAsserted := rfl
@[simp] theorem setOutgoing_sportResponse (f : AnswerFrame) : (s.setOutgoing f).sportResponse = s.sportResponse := rfl
@[simp] theorem setOutgoing_mportRequest (f : AnswerFrame) : (s.setOutgoing f).mportRequest = s.mportRequest := rfl
@[simp] theorem setOutgoing_pending (f : AnswerFrame) : (s.setOutgoing f).pending = s.pending := rfl
@[simp] theorem setOutgoing_matchEntry (f : AnswerFrame) (j : Fin 32) : (s.setOutgoing f).matchEntry j = s.matchEntry j := rfl
@[simp] theorem setOutgoing_slot (f : AnswerFrame) (num : SlotId) : (s.setOutgoing f).slot num = s.slot num := rfl
@[simp] theorem setOutgoing_track (f : AnswerFrame) (u : Tag) : (s.setOutgoing f).track u = s.track u := rfl
@[simp] theorem setOutgoing_order (f : AnswerFrame) (v : SourceId) : (s.setOutgoing f).order v = s.order v := rfl
@[simp] theorem setOutgoing_outgoing (f : AnswerFrame) : (s.setOutgoing f).toolLink.outgoing = f := rfl
@[simp] theorem setOutgoing_stored (f : AnswerFrame) : (s.setOutgoing f).toolLink.stored = s.toolLink.stored := rfl
@[simp] theorem setOutgoing_awaitsHigh (f : AnswerFrame) : (s.setOutgoing f).toolLink.awaitsHigh = false := rfl

/-! ### `store` -/

@[simp] theorem store_table (code seq : Byte) (a : Answer) : (s.store code seq a).table = s.table := rfl
@[simp] theorem store_mode (code seq : Byte) (a : Answer) : (s.store code seq a).mode = s.mode := rfl
@[simp] theorem store_work (code seq : Byte) (a : Answer) : (s.store code seq a).work = s.work := rfl
@[simp] theorem store_slots (code seq : Byte) (a : Answer) : (s.store code seq a).slots = s.slots := rfl
@[simp] theorem store_captureSeq (code seq : Byte) (a : Answer) : (s.store code seq a).captureSeq = s.captureSeq := rfl
@[simp] theorem store_history (code seq : Byte) (a : Answer) : (s.store code seq a).history = s.history := rfl
@[simp] theorem store_queue (code seq : Byte) (a : Answer) : (s.store code seq a).queue = s.queue := rfl
@[simp] theorem store_banks (code seq : Byte) (a : Answer) : (s.store code seq a).banks = s.banks := rfl
@[simp] theorem store_session (code seq : Byte) (a : Answer) : (s.store code seq a).session = s.session := rfl
@[simp] theorem store_tracker (code seq : Byte) (a : Answer) : (s.store code seq a).tracker = s.tracker := rfl
@[simp] theorem store_timeBase (code seq : Byte) (a : Answer) : (s.store code seq a).timeBase = s.timeBase := rfl
@[simp] theorem store_alerts (code seq : Byte) (a : Answer) : (s.store code seq a).alerts = s.alerts := rfl
@[simp] theorem store_porstAsserted (code seq : Byte) (a : Answer) : (s.store code seq a).porstAsserted = s.porstAsserted := rfl
@[simp] theorem store_srstAsserted (code seq : Byte) (a : Answer) : (s.store code seq a).srstAsserted = s.srstAsserted := rfl
@[simp] theorem store_sportResponse (code seq : Byte) (a : Answer) : (s.store code seq a).sportResponse = s.sportResponse := rfl
@[simp] theorem store_mportRequest (code seq : Byte) (a : Answer) : (s.store code seq a).mportRequest = s.mportRequest := rfl
@[simp] theorem store_pending (code seq : Byte) (a : Answer) : (s.store code seq a).pending = s.pending := rfl
@[simp] theorem store_matchEntry (code seq : Byte) (a : Answer) (j : Fin 32) : (s.store code seq a).matchEntry j = s.matchEntry j := rfl
@[simp] theorem store_slot (code seq : Byte) (a : Answer) (num : SlotId) : (s.store code seq a).slot num = s.slot num := rfl
@[simp] theorem store_track (code seq : Byte) (a : Answer) (u : Tag) : (s.store code seq a).track u = s.track u := rfl
@[simp] theorem store_order (code seq : Byte) (a : Answer) (v : SourceId) : (s.store code seq a).order v = s.order v := rfl
@[simp] theorem store_outgoing (code seq : Byte) (a : Answer) :
    (s.store code seq a).toolLink.outgoing = responseFrame code seq a := rfl
@[simp] theorem store_stored (code seq : Byte) (a : Answer) :
    (s.store code seq a).toolLink.stored = some { code := code, seq := seq, answer := a } := rfl
@[simp] theorem store_awaitsHigh (code seq : Byte) (a : Answer) : (s.store code seq a).toolLink.awaitsHigh = false := rfl

/-! ### `raise` -/

@[simp] theorem raise_table (c : Cause) : (s.raise c).table = s.table := rfl
@[simp] theorem raise_mode (c : Cause) : (s.raise c).mode = s.mode := rfl
@[simp] theorem raise_work (c : Cause) : (s.raise c).work = s.work := rfl
@[simp] theorem raise_slots (c : Cause) : (s.raise c).slots = s.slots := rfl
@[simp] theorem raise_captureSeq (c : Cause) : (s.raise c).captureSeq = s.captureSeq := rfl
@[simp] theorem raise_history (c : Cause) : (s.raise c).history = s.history := rfl
@[simp] theorem raise_queue (c : Cause) : (s.raise c).queue = s.queue := rfl
@[simp] theorem raise_banks (c : Cause) : (s.raise c).banks = s.banks := rfl
@[simp] theorem raise_session (c : Cause) : (s.raise c).session = s.session := rfl
@[simp] theorem raise_tracker (c : Cause) : (s.raise c).tracker = s.tracker := rfl
@[simp] theorem raise_timeBase (c : Cause) : (s.raise c).timeBase = s.timeBase := rfl
@[simp] theorem raise_toolLink (c : Cause) : (s.raise c).toolLink = s.toolLink := rfl
@[simp] theorem raise_porstAsserted (c : Cause) : (s.raise c).porstAsserted = s.porstAsserted := rfl
@[simp] theorem raise_srstAsserted (c : Cause) : (s.raise c).srstAsserted = s.srstAsserted := rfl
@[simp] theorem raise_sportResponse (c : Cause) : (s.raise c).sportResponse = s.sportResponse := rfl
@[simp] theorem raise_mportRequest (c : Cause) : (s.raise c).mportRequest = s.mportRequest := rfl
@[simp] theorem raise_pending (c : Cause) : (s.raise c).pending = s.pending := rfl
@[simp] theorem raise_matchEntry (c : Cause) (j : Fin 32) : (s.raise c).matchEntry j = s.matchEntry j := rfl
@[simp] theorem raise_slot (c : Cause) (num : SlotId) : (s.raise c).slot num = s.slot num := rfl
@[simp] theorem raise_track (c : Cause) (u : Tag) : (s.raise c).track u = s.track u := rfl
@[simp] theorem raise_order (c : Cause) (v : SourceId) : (s.raise c).order v = s.order v := rfl

/-! ### `count` -/

@[simp] theorem count_table (k : Counter) : (s.count k).table = s.table := rfl
@[simp] theorem count_mode (k : Counter) : (s.count k).mode = s.mode := rfl
@[simp] theorem count_work (k : Counter) : (s.count k).work = s.work := rfl
@[simp] theorem count_slots (k : Counter) : (s.count k).slots = s.slots := rfl
@[simp] theorem count_captureSeq (k : Counter) : (s.count k).captureSeq = s.captureSeq := rfl
@[simp] theorem count_history (k : Counter) : (s.count k).history = s.history := rfl
@[simp] theorem count_queue (k : Counter) : (s.count k).queue = s.queue := rfl
@[simp] theorem count_banks (k : Counter) : (s.count k).banks = s.banks := rfl
@[simp] theorem count_session (k : Counter) : (s.count k).session = s.session := rfl
@[simp] theorem count_tracker (k : Counter) : (s.count k).tracker = s.tracker := rfl
@[simp] theorem count_timeBase (k : Counter) : (s.count k).timeBase = s.timeBase := rfl
@[simp] theorem count_toolLink (k : Counter) : (s.count k).toolLink = s.toolLink := rfl
@[simp] theorem count_porstAsserted (k : Counter) : (s.count k).porstAsserted = s.porstAsserted := rfl
@[simp] theorem count_srstAsserted (k : Counter) : (s.count k).srstAsserted = s.srstAsserted := rfl
@[simp] theorem count_sportResponse (k : Counter) : (s.count k).sportResponse = s.sportResponse := rfl
@[simp] theorem count_mportRequest (k : Counter) : (s.count k).mportRequest = s.mportRequest := rfl
@[simp] theorem count_pending (k : Counter) : (s.count k).pending = s.pending := rfl
@[simp] theorem count_matchEntry (k : Counter) (j : Fin 32) : (s.count k).matchEntry j = s.matchEntry j := rfl
@[simp] theorem count_slot (k : Counter) (num : SlotId) : (s.count k).slot num = s.slot num := rfl
@[simp] theorem count_track (k : Counter) (u : Tag) : (s.count k).track u = s.track u := rfl
@[simp] theorem count_order (k : Counter) (v : SourceId) : (s.count k).order v = s.order v := rfl

/-! ### `countAndRaise` -/

@[simp] theorem countAndRaise_table (k : Counter) (c : Cause) : (s.countAndRaise k c).table = s.table := rfl
@[simp] theorem countAndRaise_mode (k : Counter) (c : Cause) : (s.countAndRaise k c).mode = s.mode := rfl
@[simp] theorem countAndRaise_work (k : Counter) (c : Cause) : (s.countAndRaise k c).work = s.work := rfl
@[simp] theorem countAndRaise_slots (k : Counter) (c : Cause) : (s.countAndRaise k c).slots = s.slots := rfl
@[simp] theorem countAndRaise_captureSeq (k : Counter) (c : Cause) : (s.countAndRaise k c).captureSeq = s.captureSeq := rfl
@[simp] theorem countAndRaise_history (k : Counter) (c : Cause) : (s.countAndRaise k c).history = s.history := rfl
@[simp] theorem countAndRaise_queue (k : Counter) (c : Cause) : (s.countAndRaise k c).queue = s.queue := rfl
@[simp] theorem countAndRaise_banks (k : Counter) (c : Cause) : (s.countAndRaise k c).banks = s.banks := rfl
@[simp] theorem countAndRaise_session (k : Counter) (c : Cause) : (s.countAndRaise k c).session = s.session := rfl
@[simp] theorem countAndRaise_tracker (k : Counter) (c : Cause) : (s.countAndRaise k c).tracker = s.tracker := rfl
@[simp] theorem countAndRaise_timeBase (k : Counter) (c : Cause) : (s.countAndRaise k c).timeBase = s.timeBase := rfl
@[simp] theorem countAndRaise_toolLink (k : Counter) (c : Cause) : (s.countAndRaise k c).toolLink = s.toolLink := rfl
@[simp] theorem countAndRaise_porstAsserted (k : Counter) (c : Cause) : (s.countAndRaise k c).porstAsserted = s.porstAsserted := rfl
@[simp] theorem countAndRaise_srstAsserted (k : Counter) (c : Cause) : (s.countAndRaise k c).srstAsserted = s.srstAsserted := rfl
@[simp] theorem countAndRaise_sportResponse (k : Counter) (c : Cause) : (s.countAndRaise k c).sportResponse = s.sportResponse := rfl
@[simp] theorem countAndRaise_mportRequest (k : Counter) (c : Cause) : (s.countAndRaise k c).mportRequest = s.mportRequest := rfl
@[simp] theorem countAndRaise_pending (k : Counter) (c : Cause) : (s.countAndRaise k c).pending = s.pending := rfl
@[simp] theorem countAndRaise_matchEntry (k : Counter) (c : Cause) (j : Fin 32) : (s.countAndRaise k c).matchEntry j = s.matchEntry j := rfl
@[simp] theorem countAndRaise_slot (k : Counter) (c : Cause) (num : SlotId) : (s.countAndRaise k c).slot num = s.slot num := rfl
@[simp] theorem countAndRaise_track (k : Counter) (c : Cause) (u : Tag) : (s.countAndRaise k c).track u = s.track u := rfl
@[simp] theorem countAndRaise_order (k : Counter) (c : Cause) (v : SourceId) : (s.countAndRaise k c).order v = s.order v := rfl

/-! ### Reading the place just written -/

theorem matchEntry_setMatch (i j : Fin 32) (e : MatchEntry) :
    (s.setMatch i e).matchEntry j = if i = j then e else s.matchEntry j := by
  simp only [setMatch, matchEntry, Fin.getElem_fin, Vector.getElem_set, Fin.ext_iff]

theorem slot_setSlot (n m : SlotId) (sl : Slot) : (s.setSlot n sl).slot m = if n = m then sl else s.slot m := by
  simp only [setSlot, slot, Fin.getElem_fin, Vector.getElem_set, Fin.ext_iff]

theorem track_setTrack (t u : Tag) (e : TrackerEntry) : (s.setTrack t e).track u = if t = u then e else s.track u := by
  simp only [setTrack, track, Fin.getElem_fin, Vector.getElem_set, Fin.ext_iff]

theorem order_setOrder (src v : SourceId) (l : List Tag) :
    (s.setOrder src l).order v = if src = v then l else s.order v := by
  simp only [setOrder, order, Fin.getElem_fin, Vector.getElem_set, Fin.ext_iff]

@[simp] theorem matchEntry_setMatch_self (i : Fin 32) (e : MatchEntry) : (s.setMatch i e).matchEntry i = e := by
  simp [matchEntry_setMatch]

@[simp] theorem slot_setSlot_self (n : SlotId) (sl : Slot) : (s.setSlot n sl).slot n = sl := by simp [slot_setSlot]

@[simp] theorem track_setTrack_self (t : Tag) (e : TrackerEntry) : (s.setTrack t e).track t = e := by
  simp [track_setTrack]

@[simp] theorem order_setOrder_self (src : SourceId) (l : List Tag) : (s.setOrder src l).order src = l := by
  simp [order_setOrder]

end Sys2Proof.Machine.State
end

