-- ==== Sys2Proof/Laws/Frames.lean ====
section
/-! SUPPORT. What each shared operation leaves as it was, field by field. -/

namespace Sys2Proof.Machine.State

variable (s : State)

/-! ### `forward` -/

@[simp] theorem forward_table (w : Work) : (s.forward w).table = s.table := rfl
@[simp] theorem forward_mode (w : Work) : (s.forward w).mode = s.mode := rfl
@[simp] theorem forward_work (w : Work) : (s.forward w).work = s.work := rfl
@[simp] theorem forward_slots (w : Work) : (s.forward w).slots = s.slots := rfl
@[simp] theorem forward_captureSeq (w : Work) : (s.forward w).captureSeq = s.captureSeq := rfl
@[simp] theorem forward_history (w : Work) : (s.forward w).history = s.history := rfl
@[simp] theorem forward_queue (w : Work) : (s.forward w).queue = s.queue := rfl
@[simp] theorem forward_banks (w : Work) : (s.forward w).banks = s.banks := rfl
@[simp] theorem forward_session (w : Work) : (s.forward w).session = s.session := rfl
@[simp] theorem forward_timeBase (w : Work) : (s.forward w).timeBase = s.timeBase := rfl
@[simp] theorem forward_alerts (w : Work) : (s.forward w).alerts = s.alerts := rfl
@[simp] theorem forward_toolLink (w : Work) : (s.forward w).toolLink = s.toolLink := rfl
@[simp] theorem forward_porstAsserted (w : Work) : (s.forward w).porstAsserted = s.porstAsserted := rfl
@[simp] theorem forward_srstAsserted (w : Work) : (s.forward w).srstAsserted = s.srstAsserted := rfl
@[simp] theorem forward_sportResponse (w : Work) : (s.forward w).sportResponse = s.sportResponse := rfl
@[simp] theorem forward_mportRequest (w : Work) : (s.forward w).mportRequest = s.mportRequest := rfl
@[simp] theorem forward_pending (w : Work) : (s.forward w).pending = s.pending := rfl
@[simp] theorem forward_matchEntry (w : Work) (j : Fin 32) : (s.forward w).matchEntry j = s.matchEntry j := by
  simp [matchEntry]
@[simp] theorem forward_slot (w : Work) (num : SlotId) : (s.forward w).slot num = s.slot num := by
  simp [slot]

/-! ### `answerLocally` -/

@[simp] theorem answerLocally_table (w : Work) (r : Response) (served : Bool) : (s.answerLocally w r served).table = s.table := rfl
@[simp] theorem answerLocally_mode (w : Work) (r : Response) (served : Bool) : (s.answerLocally w r served).mode = s.mode := rfl
@[simp] theorem answerLocally_work (w : Work) (r : Response) (served : Bool) : (s.answerLocally w r served).work = s.work := rfl
@[simp] theorem answerLocally_slots (w : Work) (r : Response) (served : Bool) : (s.answerLocally w r served).slots = s.slots := rfl
@[simp] theorem answerLocally_captureSeq (w : Work) (r : Response) (served : Bool) : (s.answerLocally w r served).captureSeq = s.captureSeq := rfl
@[simp] theorem answerLocally_history (w : Work) (r : Response) (served : Bool) : (s.answerLocally w r served).history = s.history := rfl
@[simp] theorem answerLocally_queue (w : Work) (r : Response) (served : Bool) : (s.answerLocally w r served).queue = s.queue := rfl
@[simp] theorem answerLocally_banks (w : Work) (r : Response) (served : Bool) : (s.answerLocally w r served).banks = s.banks := rfl
@[simp] theorem answerLocally_session (w : Work) (r : Response) (served : Bool) : (s.answerLocally w r served).session = s.session := rfl
@[simp] theorem answerLocally_timeBase (w : Work) (r : Response) (served : Bool) : (s.answerLocally w r served).timeBase = s.timeBase := rfl
@[simp] theorem answerLocally_alerts (w : Work) (r : Response) (served : Bool) : (s.answerLocally w r served).alerts = s.alerts := rfl
@[simp] theorem answerLocally_toolLink (w : Work) (r : Response) (served : Bool) : (s.answerLocally w r served).toolLink = s.toolLink := rfl
@[simp] theorem answerLocally_porstAsserted (w : Work) (r : Response) (served : Bool) : (s.answerLocally w r served).porstAsserted = s.porstAsserted := rfl
@[simp] theorem answerLocally_srstAsserted (w : Work) (r : Response) (served : Bool) : (s.answerLocally w r served).srstAsserted = s.srstAsserted := rfl
@[simp] theorem answerLocally_sportResponse (w : Work) (r : Response) (served : Bool) : (s.answerLocally w r served).sportResponse = s.sportResponse := rfl
@[simp] theorem answerLocally_mportRequest (w : Work) (r : Response) (served : Bool) : (s.answerLocally w r served).mportRequest = s.mportRequest := rfl
@[simp] theorem answerLocally_pending (w : Work) (r : Response) (served : Bool) : (s.answerLocally w r served).pending = s.pending := rfl
@[simp] theorem answerLocally_matchEntry (w : Work) (r : Response) (served : Bool) (j : Fin 32) : (s.answerLocally w r served).matchEntry j = s.matchEntry j := by
  simp [matchEntry]
@[simp] theorem answerLocally_slot (w : Work) (r : Response) (served : Bool) (num : SlotId) : (s.answerLocally w r served).slot num = s.slot num := by
  simp [slot]

/-! ### `afterStop` -/

theorem afterStop_frame (w : Work) (g : Governor) :
    (s.afterStop w g) = { s with work := (s.afterStop w g).work } := by
  unfold afterStop; split <;> rfl

@[simp] theorem afterStop_table (w : Work) (g : Governor) : (s.afterStop w g).table = s.table := by rw [afterStop_frame]
@[simp] theorem afterStop_mode (w : Work) (g : Governor) : (s.afterStop w g).mode = s.mode := by rw [afterStop_frame]
@[simp] theorem afterStop_slots (w : Work) (g : Governor) : (s.afterStop w g).slots = s.slots := by rw [afterStop_frame]
@[simp] theorem afterStop_captureSeq (w : Work) (g : Governor) : (s.afterStop w g).captureSeq = s.captureSeq := by rw [afterStop_frame]
@[simp] theorem afterStop_history (w : Work) (g : Governor) : (s.afterStop w g).history = s.history := by rw [afterStop_frame]
@[simp] theorem afterStop_queue (w : Work) (g : Governor) : (s.afterStop w g).queue = s.queue := by rw [afterStop_frame]
@[simp] theorem afterStop_banks (w : Work) (g : Governor) : (s.afterStop w g).banks = s.banks := by rw [afterStop_frame]
@[simp] theorem afterStop_session (w : Work) (g : Governor) : (s.afterStop w g).session = s.session := by rw [afterStop_frame]
@[simp] theorem afterStop_tracker (w : Work) (g : Governor) : (s.afterStop w g).tracker = s.tracker := by rw [afterStop_frame]
@[simp] theorem afterStop_timeBase (w : Work) (g : Governor) : (s.afterStop w g).timeBase = s.timeBase := by rw [afterStop_frame]
@[simp] theorem afterStop_alerts (w : Work) (g : Governor) : (s.afterStop w g).alerts = s.alerts := by rw [afterStop_frame]
@[simp] theorem afterStop_toolLink (w : Work) (g : Governor) : (s.afterStop w g).toolLink = s.toolLink := by rw [afterStop_frame]
@[simp] theorem afterStop_porstAsserted (w : Work) (g : Governor) : (s.afterStop w g).porstAsserted = s.porstAsserted := by rw [afterStop_frame]
@[simp] theorem afterStop_srstAsserted (w : Work) (g : Governor) : (s.afterStop w g).srstAsserted = s.srstAsserted := by rw [afterStop_frame]
@[simp] theorem afterStop_sportResponse (w : Work) (g : Governor) : (s.afterStop w g).sportResponse = s.sportResponse := by rw [afterStop_frame]
@[simp] theorem afterStop_mportRequest (w : Work) (g : Governor) : (s.afterStop w g).mportRequest = s.mportRequest := by rw [afterStop_frame]
@[simp] theorem afterStop_pending (w : Work) (g : Governor) : (s.afterStop w g).pending = s.pending := by rw [afterStop_frame]
@[simp] theorem afterStop_matchEntry (w : Work) (g : Governor) (j : Fin 32) : (s.afterStop w g).matchEntry j = s.matchEntry j := by
  simp [matchEntry]
@[simp] theorem afterStop_slot (w : Work) (g : Governor) (num : SlotId) : (s.afterStop w g).slot num = s.slot num := by
  simp [slot]
@[simp] theorem afterStop_track (w : Work) (g : Governor) (u : Tag) : (s.afterStop w g).track u = s.track u := by
  simp [track]
@[simp] theorem afterStop_order (w : Work) (g : Governor) (v : SourceId) : (s.afterStop w g).order v = s.order v := by
  simp [order]

/-! ### `afterAction` -/

theorem afterAction_frame (w : Work) (g : Governor) :
    (s.afterAction w g) = { s with work := (s.afterAction w g).work } := by
  unfold afterAction afterStop; repeat' split
  all_goals rfl

@[simp] theorem afterAction_table (w : Work) (g : Governor) : (s.afterAction w g).table = s.table := by rw [afterAction_frame]
@[simp] theorem afterAction_mode (w : Work) (g : Governor) : (s.afterAction w g).mode = s.mode := by rw [afterAction_frame]
@[simp] theorem afterAction_slots (w : Work) (g : Governor) : (s.afterAction w g).slots = s.slots := by rw [afterAction_frame]
@[simp] theorem afterAction_captureSeq (w : Work) (g : Governor) : (s.afterAction w g).captureSeq = s.captureSeq := by rw [afterAction_frame]
@[simp] theorem afterAction_history (w : Work) (g : Governor) : (s.afterAction w g).history = s.history := by rw [afterAction_frame]
@[simp] theorem afterAction_queue (w : Work) (g : Governor) : (s.afterAction w g).queue = s.queue := by rw [afterAction_frame]
@[simp] theorem afterAction_banks (w : Work) (g : Governor) : (s.afterAction w g).banks = s.banks := by rw [afterAction_frame]
@[simp] theorem afterAction_session (w : Work) (g : Governor) : (s.afterAction w g).session = s.session := by rw [afterAction_frame]
@[simp] theorem afterAction_tracker (w : Work) (g : Governor) : (s.afterAction w g).tracker = s.tracker := by rw [afterAction_frame]
@[simp] theorem afterAction_timeBase (w : Work) (g : Governor) : (s.afterAction w g).timeBase = s.timeBase := by rw [afterAction_frame]
@[simp] theorem afterAction_alerts (w : Work) (g : Governor) : (s.afterAction w g).alerts = s.alerts := by rw [afterAction_frame]
@[simp] theorem afterAction_toolLink (w : Work) (g : Governor) : (s.afterAction w g).toolLink = s.toolLink := by rw [afterAction_frame]
@[simp] theorem afterAction_porstAsserted (w : Work) (g : Governor) : (s.afterAction w g).porstAsserted = s.porstAsserted := by rw [afterAction_frame]
@[simp] theorem afterAction_srstAsserted (w : Work) (g : Governor) : (s.afterAction w g).srstAsserted = s.srstAsserted := by rw [afterAction_frame]
@[simp] theorem afterAction_sportResponse (w : Work) (g : Governor) : (s.afterAction w g).sportResponse = s.sportResponse := by rw [afterAction_frame]
@[simp] theorem afterAction_mportRequest (w : Work) (g : Governor) : (s.afterAction w g).mportRequest = s.mportRequest := by rw [afterAction_frame]
@[simp] theorem afterAction_pending (w : Work) (g : Governor) : (s.afterAction w g).pending = s.pending := by rw [afterAction_frame]
@[simp] theorem afterAction_matchEntry (w : Work) (g : Governor) (j : Fin 32) : (s.afterAction w g).matchEntry j = s.matchEntry j := by
  simp [matchEntry]
@[simp] theorem afterAction_slot (w : Work) (g : Governor) (num : SlotId) : (s.afterAction w g).slot num = s.slot num := by
  simp [slot]
@[simp] theorem afterAction_track (w : Work) (g : Governor) (u : Tag) : (s.afterAction w g).track u = s.track u := by
  simp [track]
@[simp] theorem afterAction_order (w : Work) (g : Governor) (v : SourceId) : (s.afterAction w g).order v = s.order v := by
  simp [order]

/-! ### `forwardAndGoOn` -/

theorem forwardAndGoOn_frame (w : Work) (g : Governor) :
    (s.forwardAndGoOn w g) = { s with tracker := (s.forwardAndGoOn w g).tracker, work := (s.forwardAndGoOn w g).work } := by
  unfold forwardAndGoOn; rw [afterAction_frame]; rfl

@[simp] theorem forwardAndGoOn_table (w : Work) (g : Governor) : (s.forwardAndGoOn w g).table = s.table := by rw [forwardAndGoOn_frame]
@[simp] theorem forwardAndGoOn_mode (w : Work) (g : Governor) : (s.forwardAndGoOn w g).mode = s.mode := by rw [forwardAndGoOn_frame]
@[simp] theorem forwardAndGoOn_slots (w : Work) (g : Governor) : (s.forwardAndGoOn w g).slots = s.slots := by rw [forwardAndGoOn_frame]
@[simp] theorem forwardAndGoOn_captureSeq (w : Work) (g : Governor) : (s.forwardAndGoOn w g).captureSeq = s.captureSeq := by rw [forwardAndGoOn_frame]
@[simp] theorem forwardAndGoOn_history (w : Work) (g : Governor) : (s.forwardAndGoOn w g).history = s.history := by rw [forwardAndGoOn_frame]
@[simp] theorem forwardAndGoOn_queue (w : Work) (g : Governor) : (s.forwardAndGoOn w g).queue = s.queue := by rw [forwardAndGoOn_frame]
@[simp] theorem forwardAndGoOn_banks (w : Work) (g : Governor) : (s.forwardAndGoOn w g).banks = s.banks := by rw [forwardAndGoOn_frame]
@[simp] theorem forwardAndGoOn_session (w : Work) (g : Governor) : (s.forwardAndGoOn w g).session = s.session := by rw [forwardAndGoOn_frame]
@[simp] theorem forwardAndGoOn_timeBase (w : Work) (g : Governor) : (s.forwardAndGoOn w g).timeBase = s.timeBase := by rw [forwardAndGoOn_frame]
@[simp] theorem forwardAndGoOn_alerts (w : Work) (g : Governor) : (s.forwardAndGoOn w g).alerts = s.alerts := by rw [forwardAndGoOn_frame]
@[simp] theorem forwardAndGoOn_toolLink (w : Work) (g : Governor) : (s.forwardAndGoOn w g).toolLink = s.toolLink := by rw [forwardAndGoOn_frame]
@[simp] theorem forwardAndGoOn_porstAsserted (w : Work) (g : Governor) : (s.forwardAndGoOn w g).porstAsserted = s.porstAsserted := by rw [forwardAndGoOn_frame]
@[simp] theorem forwardAndGoOn_srstAsserted (w : Work) (g : Governor) : (s.forwardAndGoOn w g).srstAsserted = s.srstAsserted := by rw [forwardAndGoOn_frame]
@[simp] theorem forwardAndGoOn_sportResponse (w : Work) (g : Governor) : (s.forwardAndGoOn w g).sportResponse = s.sportResponse := by rw [forwardAndGoOn_frame]
@[simp] theorem forwardAndGoOn_mportRequest (w : Work) (g : Governor) : (s.forwardAndGoOn w g).mportRequest = s.mportRequest := by rw [forwardAndGoOn_frame]
@[simp] theorem forwardAndGoOn_pending (w : Work) (g : Governor) : (s.forwardAndGoOn w g).pending = s.pending := by rw [forwardAndGoOn_frame]
@[simp] theorem forwardAndGoOn_matchEntry (w : Work) (g : Governor) (j : Fin 32) : (s.forwardAndGoOn w g).matchEntry j = s.matchEntry j := by
  simp [matchEntry]
@[simp] theorem forwardAndGoOn_slot (w : Work) (g : Governor) (num : SlotId) : (s.forwardAndGoOn w g).slot num = s.slot num := by
  simp [slot]

/-! ### `hit` -/

@[simp] theorem hit_mode (i : Fin 32) : (s.hit i).mode = s.mode := rfl
@[simp] theorem hit_work (i : Fin 32) : (s.hit i).work = s.work := rfl
@[simp] theorem hit_slots (i : Fin 32) : (s.hit i).slots = s.slots := rfl
@[simp] theorem hit_captureSeq (i : Fin 32) : (s.hit i).captureSeq = s.captureSeq := rfl
@[simp] theorem hit_history (i : Fin 32) : (s.hit i).history = s.history := rfl
@[simp] theorem hit_queue (i : Fin 32) : (s.hit i).queue = s.queue := rfl
@[simp] theorem hit_banks (i : Fin 32) : (s.hit i).banks = s.banks := rfl
@[simp] theorem hit_session (i : Fin 32) : (s.hit i).session = s.session := rfl
@[simp] theorem hit_tracker (i : Fin 32) : (s.hit i).tracker = s.tracker := rfl
@[simp] theorem hit_timeBase (i : Fin 32) : (s.hit i).timeBase = s.timeBase := rfl
@[simp] theorem hit_alerts (i : Fin 32) : (s.hit i).alerts = s.alerts := rfl
@[simp] theorem hit_toolLink (i : Fin 32) : (s.hit i).toolLink = s.toolLink := rfl
@[simp] theorem hit_porstAsserted (i : Fin 32) : (s.hit i).porstAsserted = s.porstAsserted := rfl
@[simp] theorem hit_srstAsserted (i : Fin 32) : (s.hit i).srstAsserted = s.srstAsserted := rfl
@[simp] theorem hit_sportResponse (i : Fin 32) : (s.hit i).sportResponse = s.sportResponse := rfl
@[simp] theorem hit_mportRequest (i : Fin 32) : (s.hit i).mportRequest = s.mportRequest := rfl
@[simp] theorem hit_pending (i : Fin 32) : (s.hit i).pending = s.pending := rfl
@[simp] theorem hit_slot (i : Fin 32) (num : SlotId) : (s.hit i).slot num = s.slot num := by
  simp [slot]
@[simp] theorem hit_track (i : Fin 32) (u : Tag) : (s.hit i).track u = s.track u := by
  simp [track]
@[simp] theorem hit_order (i : Fin 32) (v : SourceId) : (s.hit i).order v = s.order v := by
  simp [order]

/-! ### `miss` -/

@[simp] theorem miss_mode (i : Fin 32) : (s.miss i).mode = s.mode := rfl
@[simp] theorem miss_work (i : Fin 32) : (s.miss i).work = s.work := rfl
@[simp] theorem miss_slots (i : Fin 32) : (s.miss i).slots = s.slots := rfl
@[simp] theorem miss_captureSeq (i : Fin 32) : (s.miss i).captureSeq = s.captureSeq := rfl
@[simp] theorem miss_history (i : Fin 32) : (s.miss i).history = s.history := rfl
@[simp] theorem miss_queue (i : Fin 32) : (s.miss i).queue = s.queue := rfl
@[simp] theorem miss_banks (i : Fin 32) : (s.miss i).banks = s.banks := rfl
@[simp] theorem miss_session (i : Fin 32) : (s.miss i).session = s.session := rfl
@[simp] theorem miss_tracker (i : Fin 32) : (s.miss i).tracker = s.tracker := rfl
@[simp] theorem miss_timeBase (i : Fin 32) : (s.miss i).timeBase = s.timeBase := rfl
@[simp] theorem miss_alerts (i : Fin 32) : (s.miss i).alerts = s.alerts := rfl
@[simp] theorem miss_toolLink (i : Fin 32) : (s.miss i).toolLink = s.toolLink := rfl
@[simp] theorem miss_porstAsserted (i : Fin 32) : (s.miss i).porstAsserted = s.porstAsserted := rfl
@[simp] theorem miss_srstAsserted (i : Fin 32) : (s.miss i).srstAsserted = s.srstAsserted := rfl
@[simp] theorem miss_sportResponse (i : Fin 32) : (s.miss i).sportResponse = s.sportResponse := rfl
@[simp] theorem miss_mportRequest (i : Fin 32) : (s.miss i).mportRequest = s.mportRequest := rfl
@[simp] theorem miss_pending (i : Fin 32) : (s.miss i).pending = s.pending := rfl
@[simp] theorem miss_slot (i : Fin 32) (num : SlotId) : (s.miss i).slot num = s.slot num := by
  simp [slot]
@[simp] theorem miss_track (i : Fin 32) (u : Tag) : (s.miss i).track u = s.track u := by
  simp [track]
@[simp] theorem miss_order (i : Fin 32) (v : SourceId) : (s.miss i).order v = s.order v := by
  simp [order]

/-! ### `turnOff` -/

@[simp] theorem turnOff_mode (i : Fin 32) : (s.turnOff i).mode = s.mode := rfl
@[simp] theorem turnOff_work (i : Fin 32) : (s.turnOff i).work = s.work := rfl
@[simp] theorem turnOff_slots (i : Fin 32) : (s.turnOff i).slots = s.slots := rfl
@[simp] theorem turnOff_captureSeq (i : Fin 32) : (s.turnOff i).captureSeq = s.captureSeq := rfl
@[simp] theorem turnOff_history (i : Fin 32) : (s.turnOff i).history = s.history := rfl
@[simp] theorem turnOff_queue (i : Fin 32) : (s.turnOff i).queue = s.queue := rfl
@[simp] theorem turnOff_banks (i : Fin 32) : (s.turnOff i).banks = s.banks := rfl
@[simp] theorem turnOff_session (i : Fin 32) : (s.turnOff i).session = s.session := rfl
@[simp] theorem turnOff_tracker (i : Fin 32) : (s.turnOff i).tracker = s.tracker := rfl
@[simp] theorem turnOff_timeBase (i : Fin 32) : (s.turnOff i).timeBase = s.timeBase := rfl
@[simp] theorem turnOff_alerts (i : Fin 32) : (s.turnOff i).alerts = s.alerts := rfl
@[simp] theorem turnOff_toolLink (i : Fin 32) : (s.turnOff i).toolLink = s.toolLink := rfl
@[simp] theorem turnOff_porstAsserted (i : Fin 32) : (s.turnOff i).porstAsserted = s.porstAsserted := rfl
@[simp] theorem turnOff_srstAsserted (i : Fin 32) : (s.turnOff i).srstAsserted = s.srstAsserted := rfl
@[simp] theorem turnOff_sportResponse (i : Fin 32) : (s.turnOff i).sportResponse = s.sportResponse := rfl
@[simp] theorem turnOff_mportRequest (i : Fin 32) : (s.turnOff i).mportRequest = s.mportRequest := rfl
@[simp] theorem turnOff_pending (i : Fin 32) : (s.turnOff i).pending = s.pending := rfl
@[simp] theorem turnOff_slot (i : Fin 32) (num : SlotId) : (s.turnOff i).slot num = s.slot num := by
  simp [slot]
@[simp] theorem turnOff_track (i : Fin 32) (u : Tag) : (s.turnOff i).track u = s.track u := by
  simp [track]
@[simp] theorem turnOff_order (i : Fin 32) (v : SourceId) : (s.turnOff i).order v = s.order v := by
  simp [order]

/-! ### `retire` -/

theorem retire_frame (g : Governor) :
    s.retire g = { s with table := (s.retire g).table } := by
  unfold retire; split <;> rfl

@[simp] theorem retire_mode (g : Governor) : (s.retire g).mode = s.mode := by rw [retire_frame]
@[simp] theorem retire_work (g : Governor) : (s.retire g).work = s.work := by rw [retire_frame]
@[simp] theorem retire_slots (g : Governor) : (s.retire g).slots = s.slots := by rw [retire_frame]
@[simp] theorem retire_captureSeq (g : Governor) : (s.retire g).captureSeq = s.captureSeq := by rw [retire_frame]
@[simp] theorem retire_history (g : Governor) : (s.retire g).history = s.history := by rw [retire_frame]
@[simp] theorem retire_queue (g : Governor) : (s.retire g).queue = s.queue := by rw [retire_frame]
@[simp] theorem retire_banks (g : Governor) : (s.retire g).banks = s.banks := by rw [retire_frame]
@[simp] theorem retire_session (g : Governor) : (s.retire g).session = s.session := by rw [retire_frame]
@[simp] theorem retire_tracker (g : Governor) : (s.retire g).tracker = s.tracker := by rw [retire_frame]
@[simp] theorem retire_timeBase (g : Governor) : (s.retire g).timeBase = s.timeBase := by rw [retire_frame]
@[simp] theorem retire_alerts (g : Governor) : (s.retire g).alerts = s.alerts := by rw [retire_frame]
@[simp] theorem retire_toolLink (g : Governor) : (s.retire g).toolLink = s.toolLink := by rw [retire_frame]
@[simp] theorem retire_porstAsserted (g : Governor) : (s.retire g).porstAsserted = s.porstAsserted := by rw [retire_frame]
@[simp] theorem retire_srstAsserted (g : Governor) : (s.retire g).srstAsserted = s.srstAsserted := by rw [retire_frame]
@[simp] theorem retire_sportResponse (g : Governor) : (s.retire g).sportResponse = s.sportResponse := by rw [retire_frame]
@[simp] theorem retire_mportRequest (g : Governor) : (s.retire g).mportRequest = s.mportRequest := by rw [retire_frame]
@[simp] theorem retire_pending (g : Governor) : (s.retire g).pending = s.pending := by rw [retire_frame]
@[simp] theorem retire_slot (g : Governor) (num : SlotId) : (s.retire g).slot num = s.slot num := by
  simp [slot]
@[simp] theorem retire_track (g : Governor) (u : Tag) : (s.retire g).track u = s.track u := by
  simp [track]
@[simp] theorem retire_order (g : Governor) (v : SourceId) : (s.retire g).order v = s.order v := by
  simp [order]

/-! ### `mapGovernor` -/

@[simp] theorem mapGovernor_table (f : Governor → Governor) : (s.mapGovernor f).table = s.table := rfl
@[simp] theorem mapGovernor_mode (f : Governor → Governor) : (s.mapGovernor f).mode = s.mode := rfl
@[simp] theorem mapGovernor_slots (f : Governor → Governor) : (s.mapGovernor f).slots = s.slots := rfl
@[simp] theorem mapGovernor_captureSeq (f : Governor → Governor) : (s.mapGovernor f).captureSeq = s.captureSeq := rfl
@[simp] theorem mapGovernor_history (f : Governor → Governor) : (s.mapGovernor f).history = s.history := rfl
@[simp] theorem mapGovernor_queue (f : Governor → Governor) : (s.mapGovernor f).queue = s.queue := rfl
@[simp] theorem mapGovernor_banks (f : Governor → Governor) : (s.mapGovernor f).banks = s.banks := rfl
@[simp] theorem mapGovernor_session (f : Governor → Governor) : (s.mapGovernor f).session = s.session := rfl
@[simp] theorem mapGovernor_tracker (f : Governor → Governor) : (s.mapGovernor f).tracker = s.tracker := rfl
@[simp] theorem mapGovernor_timeBase (f : Governor → Governor) : (s.mapGovernor f).timeBase = s.timeBase := rfl
@[simp] theorem mapGovernor_alerts (f : Governor → Governor) : (s.mapGovernor f).alerts = s.alerts := rfl
@[simp] theorem mapGovernor_toolLink (f : Governor → Governor) : (s.mapGovernor f).toolLink = s.toolLink := rfl
@[simp] theorem mapGovernor_porstAsserted (f : Governor → Governor) : (s.mapGovernor f).porstAsserted = s.porstAsserted := rfl
@[simp] theorem mapGovernor_srstAsserted (f : Governor → Governor) : (s.mapGovernor f).srstAsserted = s.srstAsserted := rfl
@[simp] theorem mapGovernor_sportResponse (f : Governor → Governor) : (s.mapGovernor f).sportResponse = s.sportResponse := rfl
@[simp] theorem mapGovernor_mportRequest (f : Governor → Governor) : (s.mapGovernor f).mportRequest = s.mportRequest := rfl
@[simp] theorem mapGovernor_pending (f : Governor → Governor) : (s.mapGovernor f).pending = s.pending := rfl
@[simp] theorem mapGovernor_matchEntry (f : Governor → Governor) (j : Fin 32) : (s.mapGovernor f).matchEntry j = s.matchEntry j := by
  simp [matchEntry]
@[simp] theorem mapGovernor_slot (f : Governor → Governor) (num : SlotId) : (s.mapGovernor f).slot num = s.slot num := by
  simp [slot]
@[simp] theorem mapGovernor_track (f : Governor → Governor) (u : Tag) : (s.mapGovernor f).track u = s.track u := by
  simp [track]
@[simp] theorem mapGovernor_order (f : Governor → Governor) (v : SourceId) : (s.mapGovernor f).order v = s.order v := by
  simp [order]

/-! ### `closeRecord` -/

theorem closeRecord_frame (l : CaptureLink) (f : Slot → Slot) :
    (s.closeRecord l f) = { s with slots := (s.closeRecord l f).slots, alerts := (s.closeRecord l f).alerts } := by
  unfold closeRecord; split <;> rfl

@[simp] theorem closeRecord_table (l : CaptureLink) (f : Slot → Slot) : (s.closeRecord l f).table = s.table := by rw [closeRecord_frame]
@[simp] theorem closeRecord_mode (l : CaptureLink) (f : Slot → Slot) : (s.closeRecord l f).mode = s.mode := by rw [closeRecord_frame]
@[simp] theorem closeRecord_work (l : CaptureLink) (f : Slot → Slot) : (s.closeRecord l f).work = s.work := by rw [closeRecord_frame]
@[simp] theorem closeRecord_captureSeq (l : CaptureLink) (f : Slot → Slot) : (s.closeRecord l f).captureSeq = s.captureSeq := by rw [closeRecord_frame]
@[simp] theorem closeRecord_history (l : CaptureLink) (f : Slot → Slot) : (s.closeRecord l f).history = s.history := by rw [closeRecord_frame]
@[simp] theorem closeRecord_queue (l : CaptureLink) (f : Slot → Slot) : (s.closeRecord l f).queue = s.queue := by rw [closeRecord_frame]
@[simp] theorem closeRecord_banks (l : CaptureLink) (f : Slot → Slot) : (s.closeRecord l f).banks = s.banks := by rw [closeRecord_frame]
@[simp] theorem closeRecord_session (l : CaptureLink) (f : Slot → Slot) : (s.closeRecord l f).session = s.session := by rw [closeRecord_frame]
@[simp] theorem closeRecord_tracker (l : CaptureLink) (f : Slot → Slot) : (s.closeRecord l f).tracker = s.tracker := by rw [closeRecord_frame]
@[simp] theorem closeRecord_timeBase (l : CaptureLink) (f : Slot → Slot) : (s.closeRecord l f).timeBase = s.timeBase := by rw [closeRecord_frame]
@[simp] theorem closeRecord_toolLink (l : CaptureLink) (f : Slot → Slot) : (s.closeRecord l f).toolLink = s.toolLink := by rw [closeRecord_frame]
@[simp] theorem closeRecord_porstAsserted (l : CaptureLink) (f : Slot → Slot) : (s.closeRecord l f).porstAsserted = s.porstAsserted := by rw [closeRecord_frame]
@[simp] theorem closeRecord_srstAsserted (l : CaptureLink) (f : Slot → Slot) : (s.closeRecord l f).srstAsserted = s.srstAsserted := by rw [closeRecord_frame]
@[simp] theorem closeRecord_sportResponse (l : CaptureLink) (f : Slot → Slot) : (s.closeRecord l f).sportResponse = s.sportResponse := by rw [closeRecord_frame]
@[simp] theorem closeRecord_mportRequest (l : CaptureLink) (f : Slot → Slot) : (s.closeRecord l f).mportRequest = s.mportRequest := by rw [closeRecord_frame]
@[simp] theorem closeRecord_pending (l : CaptureLink) (f : Slot → Slot) : (s.closeRecord l f).pending = s.pending := by rw [closeRecord_frame]
@[simp] theorem closeRecord_matchEntry (l : CaptureLink) (f : Slot → Slot) (j : Fin 32) : (s.closeRecord l f).matchEntry j = s.matchEntry j := by
  simp [matchEntry]
@[simp] theorem closeRecord_track (l : CaptureLink) (f : Slot → Slot) (u : Tag) : (s.closeRecord l f).track u = s.track u := by
  simp [track]
@[simp] theorem closeRecord_order (l : CaptureLink) (f : Slot → Slot) (v : SourceId) : (s.closeRecord l f).order v = s.order v := by
  simp [order]

/-! ### `closeLink` -/

theorem closeLink_frame (l : Option CaptureLink) (f : Slot → Slot) :
    (s.closeLink l f) = { s with slots := (s.closeLink l f).slots, alerts := (s.closeLink l f).alerts } := by
  cases l with
  | none => rfl
  | some l => exact closeRecord_frame s l f

@[simp] theorem closeLink_table (l : Option CaptureLink) (f : Slot → Slot) : (s.closeLink l f).table = s.table := by rw [closeLink_frame]
@[simp] theorem closeLink_mode (l : Option CaptureLink) (f : Slot → Slot) : (s.closeLink l f).mode = s.mode := by rw [closeLink_frame]
@[simp] theorem closeLink_work (l : Option CaptureLink) (f : Slot → Slot) : (s.closeLink l f).work = s.work := by rw [closeLink_frame]
@[simp] theorem closeLink_captureSeq (l : Option CaptureLink) (f : Slot → Slot) : (s.closeLink l f).captureSeq = s.captureSeq := by rw [closeLink_frame]
@[simp] theorem closeLink_history (l : Option CaptureLink) (f : Slot → Slot) : (s.closeLink l f).history = s.history := by rw [closeLink_frame]
@[simp] theorem closeLink_queue (l : Option CaptureLink) (f : Slot → Slot) : (s.closeLink l f).queue = s.queue := by rw [closeLink_frame]
@[simp] theorem closeLink_banks (l : Option CaptureLink) (f : Slot → Slot) : (s.closeLink l f).banks = s.banks := by rw [closeLink_frame]
@[simp] theorem closeLink_session (l : Option CaptureLink) (f : Slot → Slot) : (s.closeLink l f).session = s.session := by rw [closeLink_frame]
@[simp] theorem closeLink_tracker (l : Option CaptureLink) (f : Slot → Slot) : (s.closeLink l f).tracker = s.tracker := by rw [closeLink_frame]
@[simp] theorem closeLink_timeBase (l : Option CaptureLink) (f : Slot → Slot) : (s.closeLink l f).timeBase = s.timeBase := by rw [closeLink_frame]
@[simp] theorem closeLink_toolLink (l : Option CaptureLink) (f : Slot → Slot) : (s.closeLink l f).toolLink = s.toolLink := by rw [closeLink_frame]
@[simp] theorem closeLink_porstAsserted (l : Option CaptureLink) (f : Slot → Slot) : (s.closeLink l f).porstAsserted = s.porstAsserted := by rw [closeLink_frame]
@[simp] theorem closeLink_srstAsserted (l : Option CaptureLink) (f : Slot → Slot) : (s.closeLink l f).srstAsserted = s.srstAsserted := by rw [closeLink_frame]
@[simp] theorem closeLink_sportResponse (l : Option CaptureLink) (f : Slot → Slot) : (s.closeLink l f).sportResponse = s.sportResponse := by rw [closeLink_frame]
@[simp] theorem closeLink_mportRequest (l : Option CaptureLink) (f : Slot → Slot) : (s.closeLink l f).mportRequest = s.mportRequest := by rw [closeLink_frame]
@[simp] theorem closeLink_pending (l : Option CaptureLink) (f : Slot → Slot) : (s.closeLink l f).pending = s.pending := by rw [closeLink_frame]
@[simp] theorem closeLink_matchEntry (l : Option CaptureLink) (f : Slot → Slot) (j : Fin 32) : (s.closeLink l f).matchEntry j = s.matchEntry j := by
  simp [matchEntry]
@[simp] theorem closeLink_track (l : Option CaptureLink) (f : Slot → Slot) (u : Tag) : (s.closeLink l f).track u = s.track u := by
  simp [track]
@[simp] theorem closeLink_order (l : Option CaptureLink) (f : Slot → Slot) (v : SourceId) : (s.closeLink l f).order v = s.order v := by
  simp [order]

/-! ### `expireResponse` -/

theorem expireResponse_frame (u : Tag) :
    s.expireResponse u = { s with slots := (s.expireResponse u).slots, tracker := (s.expireResponse u).tracker, alerts := (s.expireResponse u).alerts } := by
  unfold expireResponse; apply State.ext <;> simp

@[simp] theorem expireResponse_table (u : Tag) : (s.expireResponse u).table = s.table := by rw [expireResponse_frame]
@[simp] theorem expireResponse_mode (u : Tag) : (s.expireResponse u).mode = s.mode := by rw [expireResponse_frame]
@[simp] theorem expireResponse_work (u : Tag) : (s.expireResponse u).work = s.work := by rw [expireResponse_frame]
@[simp] theorem expireResponse_captureSeq (u : Tag) : (s.expireResponse u).captureSeq = s.captureSeq := by rw [expireResponse_frame]
@[simp] theorem expireResponse_history (u : Tag) : (s.expireResponse u).history = s.history := by rw [expireResponse_frame]
@[simp] theorem expireResponse_queue (u : Tag) : (s.expireResponse u).queue = s.queue := by rw [expireResponse_frame]
@[simp] theorem expireResponse_banks (u : Tag) : (s.expireResponse u).banks = s.banks := by rw [expireResponse_frame]
@[simp] theorem expireResponse_session (u : Tag) : (s.expireResponse u).session = s.session := by rw [expireResponse_frame]
@[simp] theorem expireResponse_timeBase (u : Tag) : (s.expireResponse u).timeBase = s.timeBase := by rw [expireResponse_frame]
@[simp] theorem expireResponse_toolLink (u : Tag) : (s.expireResponse u).toolLink = s.toolLink := by rw [expireResponse_frame]
@[simp] theorem expireResponse_porstAsserted (u : Tag) : (s.expireResponse u).porstAsserted = s.porstAsserted := by rw [expireResponse_frame]
@[simp] theorem expireResponse_srstAsserted (u : Tag) : (s.expireResponse u).srstAsserted = s.srstAsserted := by rw [expireResponse_frame]
@[simp] theorem expireResponse_sportResponse (u : Tag) : (s.expireResponse u).sportResponse = s.sportResponse := by rw [expireResponse_frame]
@[simp] theorem expireResponse_mportRequest (u : Tag) : (s.expireResponse u).mportRequest = s.mportRequest := by rw [expireResponse_frame]
@[simp] theorem expireResponse_pending (u : Tag) : (s.expireResponse u).pending = s.pending := by rw [expireResponse_frame]
@[simp] theorem expireResponse_matchEntry (u : Tag) (j : Fin 32) : (s.expireResponse u).matchEntry j = s.matchEntry j := by
  simp [matchEntry]

/-! ### `settleResponse` -/

theorem settleResponse_frame (u : Tag) :
    s.settleResponse u = { s with slots := (s.settleResponse u).slots, tracker := (s.settleResponse u).tracker, alerts := (s.settleResponse u).alerts } := by
  unfold settleResponse; split
  · exact expireResponse_frame s u
  · rfl

@[simp] theorem settleResponse_table (u : Tag) : (s.settleResponse u).table = s.table := by rw [settleResponse_frame]
@[simp] theorem settleResponse_mode (u : Tag) : (s.settleResponse u).mode = s.mode := by rw [settleResponse_frame]
@[simp] theorem settleResponse_work (u : Tag) : (s.settleResponse u).work = s.work := by rw [settleResponse_frame]
@[simp] theorem settleResponse_captureSeq (u : Tag) : (s.settleResponse u).captureSeq = s.captureSeq := by rw [settleResponse_frame]
@[simp] theorem settleResponse_history (u : Tag) : (s.settleResponse u).history = s.history := by rw [settleResponse_frame]
@[simp] theorem settleResponse_queue (u : Tag) : (s.settleResponse u).queue = s.queue := by rw [settleResponse_frame]
@[simp] theorem settleResponse_banks (u : Tag) : (s.settleResponse u).banks = s.banks := by rw [settleResponse_frame]
@[simp] theorem settleResponse_session (u : Tag) : (s.settleResponse u).session = s.session := by rw [settleResponse_frame]
@[simp] theorem settleResponse_timeBase (u : Tag) : (s.settleResponse u).timeBase = s.timeBase := by rw [settleResponse_frame]
@[simp] theorem settleResponse_toolLink (u : Tag) : (s.settleResponse u).toolLink = s.toolLink := by rw [settleResponse_frame]
@[simp] theorem settleResponse_porstAsserted (u : Tag) : (s.settleResponse u).porstAsserted = s.porstAsserted := by rw [settleResponse_frame]
@[simp] theorem settleResponse_srstAsserted (u : Tag) : (s.settleResponse u).srstAsserted = s.srstAsserted := by rw [settleResponse_frame]
@[simp] theorem settleResponse_sportResponse (u : Tag) : (s.settleResponse u).sportResponse = s.sportResponse := by rw [settleResponse_frame]
@[simp] theorem settleResponse_mportRequest (u : Tag) : (s.settleResponse u).mportRequest = s.mportRequest := by rw [settleResponse_frame]
@[simp] theorem settleResponse_pending (u : Tag) : (s.settleResponse u).pending = s.pending := by rw [settleResponse_frame]
@[simp] theorem settleResponse_matchEntry (u : Tag) (j : Fin 32) : (s.settleResponse u).matchEntry j = s.matchEntry j := by
  simp [matchEntry]

theorem foldl_settleResponse_frame (tags : List Tag) :
    tags.foldl settleResponse s = { s with
      slots := (tags.foldl settleResponse s).slots, tracker := (tags.foldl settleResponse s).tracker
      alerts := (tags.foldl settleResponse s).alerts } := by
  induction tags generalizing s with
  | nil => rfl
  | cons u rest ih =>
    rw [List.foldl_cons, ih]
    apply State.ext <;> simp

/-! ### `expireStall` -/

theorem expireStall_frame (w : Work) (g : Governor) :
    s.expireStall w g = { s with table := (s.expireStall w g).table, work := (s.expireStall w g).work, tracker := (s.expireStall w g).tracker, alerts := (s.expireStall w g).alerts } := by
  unfold expireStall; apply State.ext <;> simp

@[simp] theorem expireStall_mode (w : Work) (g : Governor) : (s.expireStall w g).mode = s.mode := by rw [expireStall_frame]
@[simp] theorem expireStall_slots (w : Work) (g : Governor) : (s.expireStall w g).slots = s.slots := by rw [expireStall_frame]
@[simp] theorem expireStall_captureSeq (w : Work) (g : Governor) : (s.expireStall w g).captureSeq = s.captureSeq := by rw [expireStall_frame]
@[simp] theorem expireStall_history (w : Work) (g : Governor) : (s.expireStall w g).history = s.history := by rw [expireStall_frame]
@[simp] theorem expireStall_queue (w : Work) (g : Governor) : (s.expireStall w g).queue = s.queue := by rw [expireStall_frame]
@[simp] theorem expireStall_banks (w : Work) (g : Governor) : (s.expireStall w g).banks = s.banks := by rw [expireStall_frame]
@[simp] theorem expireStall_session (w : Work) (g : Governor) : (s.expireStall w g).session = s.session := by rw [expireStall_frame]
@[simp] theorem expireStall_timeBase (w : Work) (g : Governor) : (s.expireStall w g).timeBase = s.timeBase := by rw [expireStall_frame]
@[simp] theorem expireStall_toolLink (w : Work) (g : Governor) : (s.expireStall w g).toolLink = s.toolLink := by rw [expireStall_frame]
@[simp] theorem expireStall_porstAsserted (w : Work) (g : Governor) : (s.expireStall w g).porstAsserted = s.porstAsserted := by rw [expireStall_frame]
@[simp] theorem expireStall_srstAsserted (w : Work) (g : Governor) : (s.expireStall w g).srstAsserted = s.srstAsserted := by rw [expireStall_frame]
@[simp] theorem expireStall_sportResponse (w : Work) (g : Governor) : (s.expireStall w g).sportResponse = s.sportResponse := by rw [expireStall_frame]
@[simp] theorem expireStall_mportRequest (w : Work) (g : Governor) : (s.expireStall w g).mportRequest = s.mportRequest := by rw [expireStall_frame]
@[simp] theorem expireStall_pending (w : Work) (g : Governor) : (s.expireStall w g).pending = s.pending := by rw [expireStall_frame]
@[simp] theorem expireStall_slot (w : Work) (g : Governor) (num : SlotId) : (s.expireStall w g).slot num = s.slot num := by
  simp [slot]

/-! ### `settleStall` -/

theorem settleStall_frame :
    s.settleStall = { s with table := (s.settleStall).table, work := (s.settleStall).work, tracker := (s.settleStall).tracker, alerts := (s.settleStall).alerts } := by
  unfold settleStall; split
  · exact expireStall_frame s _ _
  all_goals rfl

@[simp] theorem settleStall_mode : (s.settleStall).mode = s.mode := by rw [settleStall_frame]
@[simp] theorem settleStall_slots : (s.settleStall).slots = s.slots := by rw [settleStall_frame]
@[simp] theorem settleStall_captureSeq : (s.settleStall).captureSeq = s.captureSeq := by rw [settleStall_frame]
@[simp] theorem settleStall_history : (s.settleStall).history = s.history := by rw [settleStall_frame]
@[simp] theorem settleStall_queue : (s.settleStall).queue = s.queue := by rw [settleStall_frame]
@[simp] theorem settleStall_banks : (s.settleStall).banks = s.banks := by rw [settleStall_frame]
@[simp] theorem settleStall_session : (s.settleStall).session = s.session := by rw [settleStall_frame]
@[simp] theorem settleStall_timeBase : (s.settleStall).timeBase = s.timeBase := by rw [settleStall_frame]
@[simp] theorem settleStall_toolLink : (s.settleStall).toolLink = s.toolLink := by rw [settleStall_frame]
@[simp] theorem settleStall_porstAsserted : (s.settleStall).porstAsserted = s.porstAsserted := by rw [settleStall_frame]
@[simp] theorem settleStall_srstAsserted : (s.settleStall).srstAsserted = s.srstAsserted := by rw [settleStall_frame]
@[simp] theorem settleStall_sportResponse : (s.settleStall).sportResponse = s.sportResponse := by rw [settleStall_frame]
@[simp] theorem settleStall_mportRequest : (s.settleStall).mportRequest = s.mportRequest := by rw [settleStall_frame]
@[simp] theorem settleStall_pending : (s.settleStall).pending = s.pending := by rw [settleStall_frame]
@[simp] theorem settleStall_slot (num : SlotId) : (s.settleStall).slot num = s.slot num := by
  simp [slot]

/-! ### `settleTimers` -/

theorem settleTimers_frame :
    s.settleTimers = { s with table := (s.settleTimers).table, work := (s.settleTimers).work, slots := (s.settleTimers).slots, tracker := (s.settleTimers).tracker, alerts := (s.settleTimers).alerts } := by
  unfold settleTimers; rw [settleStall_frame, foldl_settleResponse_frame]

@[simp] theorem settleTimers_mode : (s.settleTimers).mode = s.mode := by rw [settleTimers_frame]
@[simp] theorem settleTimers_captureSeq : (s.settleTimers).captureSeq = s.captureSeq := by rw [settleTimers_frame]
@[simp] theorem settleTimers_history : (s.settleTimers).history = s.history := by rw [settleTimers_frame]
@[simp] theorem settleTimers_queue : (s.settleTimers).queue = s.queue := by rw [settleTimers_frame]
@[simp] theorem settleTimers_banks : (s.settleTimers).banks = s.banks := by rw [settleTimers_frame]
@[simp] theorem settleTimers_session : (s.settleTimers).session = s.session := by rw [settleTimers_frame]
@[simp] theorem settleTimers_timeBase : (s.settleTimers).timeBase = s.timeBase := by rw [settleTimers_frame]
@[simp] theorem settleTimers_toolLink : (s.settleTimers).toolLink = s.toolLink := by rw [settleTimers_frame]
@[simp] theorem settleTimers_porstAsserted : (s.settleTimers).porstAsserted = s.porstAsserted := by rw [settleTimers_frame]
@[simp] theorem settleTimers_srstAsserted : (s.settleTimers).srstAsserted = s.srstAsserted := by rw [settleTimers_frame]
@[simp] theorem settleTimers_sportResponse : (s.settleTimers).sportResponse = s.sportResponse := by rw [settleTimers_frame]
@[simp] theorem settleTimers_mportRequest : (s.settleTimers).mportRequest = s.mportRequest := by rw [settleTimers_frame]
@[simp] theorem settleTimers_pending : (s.settleTimers).pending = s.pending := by rw [settleTimers_frame]

/-! ### `createRecord` -/

theorem createRecord_frame (n : SlotId) (r : Request) (b : Bool) :
    (s.createRecord n r b) = { s with slots := (s.createRecord n r b).slots, captureSeq := (s.createRecord n r b).captureSeq, alerts := (s.createRecord n r b).alerts } := by
  unfold createRecord; split <;> rfl

@[simp] theorem createRecord_table (n : SlotId) (r : Request) (b : Bool) : (s.createRecord n r b).table = s.table := by rw [createRecord_frame]
@[simp] theorem createRecord_mode (n : SlotId) (r : Request) (b : Bool) : (s.createRecord n r b).mode = s.mode := by rw [createRecord_frame]
@[simp] theorem createRecord_work (n : SlotId) (r : Request) (b : Bool) : (s.createRecord n r b).work = s.work := by rw [createRecord_frame]
@[simp] theorem createRecord_history (n : SlotId) (r : Request) (b : Bool) : (s.createRecord n r b).history = s.history := by rw [createRecord_frame]
@[simp] theorem createRecord_queue (n : SlotId) (r : Request) (b : Bool) : (s.createRecord n r b).queue = s.queue := by rw [createRecord_frame]
@[simp] theorem createRecord_banks (n : SlotId) (r : Request) (b : Bool) : (s.createRecord n r b).banks = s.banks := by rw [createRecord_frame]
@[simp] theorem createRecord_session (n : SlotId) (r : Request) (b : Bool) : (s.createRecord n r b).session = s.session := by rw [createRecord_frame]
@[simp] theorem createRecord_tracker (n : SlotId) (r : Request) (b : Bool) : (s.createRecord n r b).tracker = s.tracker := by rw [createRecord_frame]
@[simp] theorem createRecord_timeBase (n : SlotId) (r : Request) (b : Bool) : (s.createRecord n r b).timeBase = s.timeBase := by rw [createRecord_frame]
@[simp] theorem createRecord_toolLink (n : SlotId) (r : Request) (b : Bool) : (s.createRecord n r b).toolLink = s.toolLink := by rw [createRecord_frame]
@[simp] theorem createRecord_porstAsserted (n : SlotId) (r : Request) (b : Bool) : (s.createRecord n r b).porstAsserted = s.porstAsserted := by rw [createRecord_frame]
@[simp] theorem createRecord_srstAsserted (n : SlotId) (r : Request) (b : Bool) : (s.createRecord n r b).srstAsserted = s.srstAsserted := by rw [createRecord_frame]
@[simp] theorem createRecord_sportResponse (n : SlotId) (r : Request) (b : Bool) : (s.createRecord n r b).sportResponse = s.sportResponse := by rw [createRecord_frame]
@[simp] theorem createRecord_mportRequest (n : SlotId) (r : Request) (b : Bool) : (s.createRecord n r b).mportRequest = s.mportRequest := by rw [createRecord_frame]
@[simp] theorem createRecord_pending (n : SlotId) (r : Request) (b : Bool) : (s.createRecord n r b).pending = s.pending := by rw [createRecord_frame]
@[simp] theorem createRecord_matchEntry (n : SlotId) (r : Request) (b : Bool) (j : Fin 32) : (s.createRecord n r b).matchEntry j = s.matchEntry j := by
  simp [matchEntry]
@[simp] theorem createRecord_track (n : SlotId) (r : Request) (b : Bool) (u : Tag) : (s.createRecord n r b).track u = s.track u := by
  simp [track]
@[simp] theorem createRecord_order (n : SlotId) (r : Request) (b : Bool) (v : SourceId) : (s.createRecord n r b).order v = s.order v := by
  simp [order]

/-! ### `placeLink` -/

@[simp] theorem placeLink_table (t : Tag) (l : CaptureLink) : (s.placeLink t l).table = s.table := rfl
@[simp] theorem placeLink_mode (t : Tag) (l : CaptureLink) : (s.placeLink t l).mode = s.mode := rfl
@[simp] theorem placeLink_work (t : Tag) (l : CaptureLink) : (s.placeLink t l).work = s.work := rfl
@[simp] theorem placeLink_slots (t : Tag) (l : CaptureLink) : (s.placeLink t l).slots = s.slots := rfl
@[simp] theorem placeLink_captureSeq (t : Tag) (l : CaptureLink) : (s.placeLink t l).captureSeq = s.captureSeq := rfl
@[simp] theorem placeLink_history (t : Tag) (l : CaptureLink) : (s.placeLink t l).history = s.history := rfl
@[simp] theorem placeLink_queue (t : Tag) (l : CaptureLink) : (s.placeLink t l).queue = s.queue := rfl
@[simp] theorem placeLink_banks (t : Tag) (l : CaptureLink) : (s.placeLink t l).banks = s.banks := rfl
@[simp] theorem placeLink_session (t : Tag) (l : CaptureLink) : (s.placeLink t l).session = s.session := rfl
@[simp] theorem placeLink_timeBase (t : Tag) (l : CaptureLink) : (s.placeLink t l).timeBase = s.timeBase := rfl
@[simp] theorem placeLink_alerts (t : Tag) (l : CaptureLink) : (s.placeLink t l).alerts = s.alerts := rfl
@[simp] theorem placeLink_toolLink (t : Tag) (l : CaptureLink) : (s.placeLink t l).toolLink = s.toolLink := rfl
@[simp] theorem placeLink_porstAsserted (t : Tag) (l : CaptureLink) : (s.placeLink t l).porstAsserted = s.porstAsserted := rfl
@[simp] theorem placeLink_srstAsserted (t : Tag) (l : CaptureLink) : (s.placeLink t l).srstAsserted = s.srstAsserted := rfl
@[simp] theorem placeLink_sportResponse (t : Tag) (l : CaptureLink) : (s.placeLink t l).sportResponse = s.sportResponse := rfl
@[simp] theorem placeLink_mportRequest (t : Tag) (l : CaptureLink) : (s.placeLink t l).mportRequest = s.mportRequest := rfl
@[simp] theorem placeLink_pending (t : Tag) (l : CaptureLink) : (s.placeLink t l).pending = s.pending := rfl
@[simp] theorem placeLink_matchEntry (t : Tag) (l : CaptureLink) (j : Fin 32) : (s.placeLink t l).matchEntry j = s.matchEntry j := by
  simp [matchEntry]
@[simp] theorem placeLink_slot (t : Tag) (l : CaptureLink) (num : SlotId) : (s.placeLink t l).slot num = s.slot num := by
  simp [slot]

/-! ### `serve` -/

theorem serve_frame (w : Work) (n : SlotId) :
    (s.serve w n) = { s with slots := (s.serve w n).slots, tracker := (s.serve w n).tracker } := by
  unfold serve; split <;> rfl

@[simp] theorem serve_table (w : Work) (n : SlotId) : (s.serve w n).table = s.table := by rw [serve_frame]
@[simp] theorem serve_mode (w : Work) (n : SlotId) : (s.serve w n).mode = s.mode := by rw [serve_frame]
@[simp] theorem serve_work (w : Work) (n : SlotId) : (s.serve w n).work = s.work := by rw [serve_frame]
@[simp] theorem serve_captureSeq (w : Work) (n : SlotId) : (s.serve w n).captureSeq = s.captureSeq := by rw [serve_frame]
@[simp] theorem serve_history (w : Work) (n : SlotId) : (s.serve w n).history = s.history := by rw [serve_frame]
@[simp] theorem serve_queue (w : Work) (n : SlotId) : (s.serve w n).queue = s.queue := by rw [serve_frame]
@[simp] theorem serve_banks (w : Work) (n : SlotId) : (s.serve w n).banks = s.banks := by rw [serve_frame]
@[simp] theorem serve_session (w : Work) (n : SlotId) : (s.serve w n).session = s.session := by rw [serve_frame]
@[simp] theorem serve_timeBase (w : Work) (n : SlotId) : (s.serve w n).timeBase = s.timeBase := by rw [serve_frame]
@[simp] theorem serve_alerts (w : Work) (n : SlotId) : (s.serve w n).alerts = s.alerts := by rw [serve_frame]
@[simp] theorem serve_toolLink (w : Work) (n : SlotId) : (s.serve w n).toolLink = s.toolLink := by rw [serve_frame]
@[simp] theorem serve_porstAsserted (w : Work) (n : SlotId) : (s.serve w n).porstAsserted = s.porstAsserted := by rw [serve_frame]
@[simp] theorem serve_srstAsserted (w : Work) (n : SlotId) : (s.serve w n).srstAsserted = s.srstAsserted := by rw [serve_frame]
@[simp] theorem serve_sportResponse (w : Work) (n : SlotId) : (s.serve w n).sportResponse = s.sportResponse := by rw [serve_frame]
@[simp] theorem serve_mportRequest (w : Work) (n : SlotId) : (s.serve w n).mportRequest = s.mportRequest := by rw [serve_frame]
@[simp] theorem serve_pending (w : Work) (n : SlotId) : (s.serve w n).pending = s.pending := by rw [serve_frame]
@[simp] theorem serve_matchEntry (w : Work) (n : SlotId) (j : Fin 32) : (s.serve w n).matchEntry j = s.matchEntry j := by
  simp [matchEntry]

/-! ### `serveStalled` -/

theorem serveStalled_frame (w : Work) (g : Governor) (n : SlotId) (timer : LimitTimer) :
    s.serveStalled w g n timer = { s with table := (s.serveStalled w g n timer).table, work := (s.serveStalled w g n timer).work, slots := (s.serveStalled w g n timer).slots, tracker := (s.serveStalled w g n timer).tracker, alerts := (s.serveStalled w g n timer).alerts } := by
  unfold serveStalled; split <;> apply State.ext <;> simp

@[simp] theorem serveStalled_mode (w : Work) (g : Governor) (n : SlotId) (timer : LimitTimer) : (s.serveStalled w g n timer).mode = s.mode := by rw [serveStalled_frame]
@[simp] theorem serveStalled_captureSeq (w : Work) (g : Governor) (n : SlotId) (timer : LimitTimer) : (s.serveStalled w g n timer).captureSeq = s.captureSeq := by rw [serveStalled_frame]
@[simp] theorem serveStalled_history (w : Work) (g : Governor) (n : SlotId) (timer : LimitTimer) : (s.serveStalled w g n timer).history = s.history := by rw [serveStalled_frame]
@[simp] theorem serveStalled_queue (w : Work) (g : Governor) (n : SlotId) (timer : LimitTimer) : (s.serveStalled w g n timer).queue = s.queue := by rw [serveStalled_frame]
@[simp] theorem serveStalled_banks (w : Work) (g : Governor) (n : SlotId) (timer : LimitTimer) : (s.serveStalled w g n timer).banks = s.banks := by rw [serveStalled_frame]
@[simp] theorem serveStalled_session (w : Work) (g : Governor) (n : SlotId) (timer : LimitTimer) : (s.serveStalled w g n timer).session = s.session := by rw [serveStalled_frame]
@[simp] theorem serveStalled_timeBase (w : Work) (g : Governor) (n : SlotId) (timer : LimitTimer) : (s.serveStalled w g n timer).timeBase = s.timeBase := by rw [serveStalled_frame]
@[simp] theorem serveStalled_toolLink (w : Work) (g : Governor) (n : SlotId) (timer : LimitTimer) : (s.serveStalled w g n timer).toolLink = s.toolLink := by rw [serveStalled_frame]
@[simp] theorem serveStalled_porstAsserted (w : Work) (g : Governor) (n : SlotId) (timer : LimitTimer) : (s.serveStalled w g n timer).porstAsserted = s.porstAsserted := by rw [serveStalled_frame]
@[simp] theorem serveStalled_srstAsserted (w : Work) (g : Governor) (n : SlotId) (timer : LimitTimer) : (s.serveStalled w g n timer).srstAsserted = s.srstAsserted := by rw [serveStalled_frame]
@[simp] theorem serveStalled_sportResponse (w : Work) (g : Governor) (n : SlotId) (timer : LimitTimer) : (s.serveStalled w g n timer).sportResponse = s.sportResponse := by rw [serveStalled_frame]
@[simp] theorem serveStalled_mportRequest (w : Work) (g : Governor) (n : SlotId) (timer : LimitTimer) : (s.serveStalled w g n timer).mportRequest = s.mportRequest := by rw [serveStalled_frame]
@[simp] theorem serveStalled_pending (w : Work) (g : Governor) (n : SlotId) (timer : LimitTimer) : (s.serveStalled w g n timer).pending = s.pending := by rw [serveStalled_frame]

/-! ### `freeze` -/

@[simp] theorem freeze_table (k : BitVec 8) : (s.freeze k).table = s.table := rfl
@[simp] theorem freeze_mode (k : BitVec 8) : (s.freeze k).mode = s.mode := rfl
@[simp] theorem freeze_work (k : BitVec 8) : (s.freeze k).work = s.work := rfl
@[simp] theorem freeze_slots (k : BitVec 8) : (s.freeze k).slots = s.slots := rfl
@[simp] theorem freeze_captureSeq (k : BitVec 8) : (s.freeze k).captureSeq = s.captureSeq := rfl
@[simp] theorem freeze_history (k : BitVec 8) : (s.freeze k).history = s.history := rfl
@[simp] theorem freeze_queue (k : BitVec 8) : (s.freeze k).queue = s.queue := rfl
@[simp] theorem freeze_banks (k : BitVec 8) : (s.freeze k).banks = s.banks := rfl
@[simp] theorem freeze_tracker (k : BitVec 8) : (s.freeze k).tracker = s.tracker := rfl
@[simp] theorem freeze_timeBase (k : BitVec 8) : (s.freeze k).timeBase = s.timeBase := rfl
@[simp] theorem freeze_toolLink (k : BitVec 8) : (s.freeze k).toolLink = s.toolLink := rfl
@[simp] theorem freeze_porstAsserted (k : BitVec 8) : (s.freeze k).porstAsserted = s.porstAsserted := rfl
@[simp] theorem freeze_srstAsserted (k : BitVec 8) : (s.freeze k).srstAsserted = s.srstAsserted := rfl
@[simp] theorem freeze_sportResponse (k : BitVec 8) : (s.freeze k).sportResponse = s.sportResponse := rfl
@[simp] theorem freeze_mportRequest (k : BitVec 8) : (s.freeze k).mportRequest = s.mportRequest := rfl
@[simp] theorem freeze_pending (k : BitVec 8) : (s.freeze k).pending = s.pending := rfl
@[simp] theorem freeze_matchEntry (k : BitVec 8) (j : Fin 32) : (s.freeze k).matchEntry j = s.matchEntry j := by
  simp [matchEntry]
@[simp] theorem freeze_slot (k : BitVec 8) (num : SlotId) : (s.freeze k).slot num = s.slot num := by
  simp [slot]
@[simp] theorem freeze_track (k : BitVec 8) (u : Tag) : (s.freeze k).track u = s.track u := by
  simp [track]
@[simp] theorem freeze_order (k : BitVec 8) (v : SourceId) : (s.freeze k).order v = s.order v := by
  simp [order]

/-! ### `leaveFrozen` -/

@[simp] theorem leaveFrozen_table (x : Session) : (s.leaveFrozen x).table = s.table := rfl
@[simp] theorem leaveFrozen_mode (x : Session) : (s.leaveFrozen x).mode = s.mode := rfl
@[simp] theorem leaveFrozen_slots (x : Session) : (s.leaveFrozen x).slots = s.slots := rfl
@[simp] theorem leaveFrozen_captureSeq (x : Session) : (s.leaveFrozen x).captureSeq = s.captureSeq := rfl
@[simp] theorem leaveFrozen_history (x : Session) : (s.leaveFrozen x).history = s.history := rfl
@[simp] theorem leaveFrozen_queue (x : Session) : (s.leaveFrozen x).queue = s.queue := rfl
@[simp] theorem leaveFrozen_banks (x : Session) : (s.leaveFrozen x).banks = s.banks := rfl
@[simp] theorem leaveFrozen_tracker (x : Session) : (s.leaveFrozen x).tracker = s.tracker := rfl
@[simp] theorem leaveFrozen_timeBase (x : Session) : (s.leaveFrozen x).timeBase = s.timeBase := rfl
@[simp] theorem leaveFrozen_alerts (x : Session) : (s.leaveFrozen x).alerts = s.alerts := rfl
@[simp] theorem leaveFrozen_toolLink (x : Session) : (s.leaveFrozen x).toolLink = s.toolLink := rfl
@[simp] theorem leaveFrozen_porstAsserted (x : Session) : (s.leaveFrozen x).porstAsserted = s.porstAsserted := rfl
@[simp] theorem leaveFrozen_srstAsserted (x : Session) : (s.leaveFrozen x).srstAsserted = s.srstAsserted := rfl
@[simp] theorem leaveFrozen_sportResponse (x : Session) : (s.leaveFrozen x).sportResponse = s.sportResponse := rfl
@[simp] theorem leaveFrozen_mportRequest (x : Session) : (s.leaveFrozen x).mportRequest = s.mportRequest := rfl
@[simp] theorem leaveFrozen_pending (x : Session) : (s.leaveFrozen x).pending = s.pending := rfl
@[simp] theorem leaveFrozen_matchEntry (x : Session) (j : Fin 32) : (s.leaveFrozen x).matchEntry j = s.matchEntry j := by
  simp [matchEntry]
@[simp] theorem leaveFrozen_slot (x : Session) (num : SlotId) : (s.leaveFrozen x).slot num = s.slot num := by
  simp [slot]
@[simp] theorem leaveFrozen_track (x : Session) (u : Tag) : (s.leaveFrozen x).track u = s.track u := by
  simp [track]
@[simp] theorem leaveFrozen_order (x : Session) (v : SourceId) : (s.leaveFrozen x).order v = s.order v := by
  simp [order]

/-! ### `takeStart` -/

theorem takeStart_frame :
    s.takeStart = { s with session := s.takeStart.session } := by
  unfold takeStart; split <;> rfl

@[simp] theorem takeStart_table : s.takeStart.table = s.table := by rw [takeStart_frame]
@[simp] theorem takeStart_mode : s.takeStart.mode = s.mode := by rw [takeStart_frame]
@[simp] theorem takeStart_work : s.takeStart.work = s.work := by rw [takeStart_frame]
@[simp] theorem takeStart_slots : s.takeStart.slots = s.slots := by rw [takeStart_frame]
@[simp] theorem takeStart_captureSeq : s.takeStart.captureSeq = s.captureSeq := by rw [takeStart_frame]
@[simp] theorem takeStart_history : s.takeStart.history = s.history := by rw [takeStart_frame]
@[simp] theorem takeStart_queue : s.takeStart.queue = s.queue := by rw [takeStart_frame]
@[simp] theorem takeStart_banks : s.takeStart.banks = s.banks := by rw [takeStart_frame]
@[simp] theorem takeStart_tracker : s.takeStart.tracker = s.tracker := by rw [takeStart_frame]
@[simp] theorem takeStart_timeBase : s.takeStart.timeBase = s.timeBase := by rw [takeStart_frame]
@[simp] theorem takeStart_alerts : s.takeStart.alerts = s.alerts := by rw [takeStart_frame]
@[simp] theorem takeStart_toolLink : s.takeStart.toolLink = s.toolLink := by rw [takeStart_frame]
@[simp] theorem takeStart_porstAsserted : s.takeStart.porstAsserted = s.porstAsserted := by rw [takeStart_frame]
@[simp] theorem takeStart_srstAsserted : s.takeStart.srstAsserted = s.srstAsserted := by rw [takeStart_frame]
@[simp] theorem takeStart_sportResponse : s.takeStart.sportResponse = s.sportResponse := by rw [takeStart_frame]
@[simp] theorem takeStart_mportRequest : s.takeStart.mportRequest = s.mportRequest := by rw [takeStart_frame]
@[simp] theorem takeStart_pending : s.takeStart.pending = s.pending := by rw [takeStart_frame]
@[simp] theorem takeStart_matchEntry (j : Fin 32) : s.takeStart.matchEntry j = s.matchEntry j := by
  simp [matchEntry]
@[simp] theorem takeStart_slot (num : SlotId) : s.takeStart.slot num = s.slot num := by
  simp [slot]
@[simp] theorem takeStart_track (u : Tag) : s.takeStart.track u = s.track u := by
  simp [track]
@[simp] theorem takeStart_order (v : SourceId) : s.takeStart.order v = s.order v := by
  simp [order]

/-! ### `takeStop` -/

theorem takeStop_frame :
    s.takeStop = { s with session := s.takeStop.session, alerts := s.takeStop.alerts } := by
  unfold takeStop; repeat' split
  all_goals rfl

@[simp] theorem takeStop_table : s.takeStop.table = s.table := by rw [takeStop_frame]
@[simp] theorem takeStop_mode : s.takeStop.mode = s.mode := by rw [takeStop_frame]
@[simp] theorem takeStop_work : s.takeStop.work = s.work := by rw [takeStop_frame]
@[simp] theorem takeStop_slots : s.takeStop.slots = s.slots := by rw [takeStop_frame]
@[simp] theorem takeStop_captureSeq : s.takeStop.captureSeq = s.captureSeq := by rw [takeStop_frame]
@[simp] theorem takeStop_history : s.takeStop.history = s.history := by rw [takeStop_frame]
@[simp] theorem takeStop_queue : s.takeStop.queue = s.queue := by rw [takeStop_frame]
@[simp] theorem takeStop_banks : s.takeStop.banks = s.banks := by rw [takeStop_frame]
@[simp] theorem takeStop_tracker : s.takeStop.tracker = s.tracker := by rw [takeStop_frame]
@[simp] theorem takeStop_timeBase : s.takeStop.timeBase = s.timeBase := by rw [takeStop_frame]
@[simp] theorem takeStop_toolLink : s.takeStop.toolLink = s.toolLink := by rw [takeStop_frame]
@[simp] theorem takeStop_porstAsserted : s.takeStop.porstAsserted = s.porstAsserted := by rw [takeStop_frame]
@[simp] theorem takeStop_srstAsserted : s.takeStop.srstAsserted = s.srstAsserted := by rw [takeStop_frame]
@[simp] theorem takeStop_sportResponse : s.takeStop.sportResponse = s.sportResponse := by rw [takeStop_frame]
@[simp] theorem takeStop_mportRequest : s.takeStop.mportRequest = s.mportRequest := by rw [takeStop_frame]
@[simp] theorem takeStop_pending : s.takeStop.pending = s.pending := by rw [takeStop_frame]
@[simp] theorem takeStop_matchEntry (j : Fin 32) : s.takeStop.matchEntry j = s.matchEntry j := by
  simp [matchEntry]
@[simp] theorem takeStop_slot (num : SlotId) : s.takeStop.slot num = s.slot num := by
  simp [slot]
@[simp] theorem takeStop_track (u : Tag) : s.takeStop.track u = s.track u := by
  simp [track]
@[simp] theorem takeStop_order (v : SourceId) : s.takeStop.order v = s.order v := by
  simp [order]

/-! ### `takeNotice` -/

theorem takeNotice_frame :
    s.takeNotice = { s with session := s.takeNotice.session, alerts := s.takeNotice.alerts } := by
  unfold takeNotice; repeat' split
  all_goals rfl

@[simp] theorem takeNotice_table : s.takeNotice.table = s.table := by rw [takeNotice_frame]
@[simp] theorem takeNotice_mode : s.takeNotice.mode = s.mode := by rw [takeNotice_frame]
@[simp] theorem takeNotice_work : s.takeNotice.work = s.work := by rw [takeNotice_frame]
@[simp] theorem takeNotice_slots : s.takeNotice.slots = s.slots := by rw [takeNotice_frame]
@[simp] theorem takeNotice_captureSeq : s.takeNotice.captureSeq = s.captureSeq := by rw [takeNotice_frame]
@[simp] theorem takeNotice_history : s.takeNotice.history = s.history := by rw [takeNotice_frame]
@[simp] theorem takeNotice_queue : s.takeNotice.queue = s.queue := by rw [takeNotice_frame]
@[simp] theorem takeNotice_banks : s.takeNotice.banks = s.banks := by rw [takeNotice_frame]
@[simp] theorem takeNotice_tracker : s.takeNotice.tracker = s.tracker := by rw [takeNotice_frame]
@[simp] theorem takeNotice_timeBase : s.takeNotice.timeBase = s.timeBase := by rw [takeNotice_frame]
@[simp] theorem takeNotice_toolLink : s.takeNotice.toolLink = s.toolLink := by rw [takeNotice_frame]
@[simp] theorem takeNotice_porstAsserted : s.takeNotice.porstAsserted = s.porstAsserted := by rw [takeNotice_frame]
@[simp] theorem takeNotice_srstAsserted : s.takeNotice.srstAsserted = s.srstAsserted := by rw [takeNotice_frame]
@[simp] theorem takeNotice_sportResponse : s.takeNotice.sportResponse = s.sportResponse := by rw [takeNotice_frame]
@[simp] theorem takeNotice_mportRequest : s.takeNotice.mportRequest = s.mportRequest := by rw [takeNotice_frame]
@[simp] theorem takeNotice_pending : s.takeNotice.pending = s.pending := by rw [takeNotice_frame]
@[simp] theorem takeNotice_matchEntry (j : Fin 32) : s.takeNotice.matchEntry j = s.matchEntry j := by
  simp [matchEntry]
@[simp] theorem takeNotice_slot (num : SlotId) : s.takeNotice.slot num = s.slot num := by
  simp [slot]
@[simp] theorem takeNotice_track (u : Tag) : s.takeNotice.track u = s.track u := by
  simp [track]
@[simp] theorem takeNotice_order (v : SourceId) : s.takeNotice.order v = s.order v := by
  simp [order]

/-! ### `appendNote` -/

theorem appendNote_frame (m : Note) :
    (s.appendNote m) = { s with history := (s.appendNote m).history, alerts := (s.appendNote m).alerts } := by
  unfold appendNote; split <;> rfl

@[simp] theorem appendNote_table (m : Note) : (s.appendNote m).table = s.table := by rw [appendNote_frame]
@[simp] theorem appendNote_mode (m : Note) : (s.appendNote m).mode = s.mode := by rw [appendNote_frame]
@[simp] theorem appendNote_work (m : Note) : (s.appendNote m).work = s.work := by rw [appendNote_frame]
@[simp] theorem appendNote_slots (m : Note) : (s.appendNote m).slots = s.slots := by rw [appendNote_frame]
@[simp] theorem appendNote_captureSeq (m : Note) : (s.appendNote m).captureSeq = s.captureSeq := by rw [appendNote_frame]
@[simp] theorem appendNote_queue (m : Note) : (s.appendNote m).queue = s.queue := by rw [appendNote_frame]
@[simp] theorem appendNote_banks (m : Note) : (s.appendNote m).banks = s.banks := by rw [appendNote_frame]
@[simp] theorem appendNote_session (m : Note) : (s.appendNote m).session = s.session := by rw [appendNote_frame]
@[simp] theorem appendNote_tracker (m : Note) : (s.appendNote m).tracker = s.tracker := by rw [appendNote_frame]
@[simp] theorem appendNote_timeBase (m : Note) : (s.appendNote m).timeBase = s.timeBase := by rw [appendNote_frame]
@[simp] theorem appendNote_toolLink (m : Note) : (s.appendNote m).toolLink = s.toolLink := by rw [appendNote_frame]
@[simp] theorem appendNote_porstAsserted (m : Note) : (s.appendNote m).porstAsserted = s.porstAsserted := by rw [appendNote_frame]
@[simp] theorem appendNote_srstAsserted (m : Note) : (s.appendNote m).srstAsserted = s.srstAsserted := by rw [appendNote_frame]
@[simp] theorem appendNote_sportResponse (m : Note) : (s.appendNote m).sportResponse = s.sportResponse := by rw [appendNote_frame]
@[simp] theorem appendNote_mportRequest (m : Note) : (s.appendNote m).mportRequest = s.mportRequest := by rw [appendNote_frame]
@[simp] theorem appendNote_pending (m : Note) : (s.appendNote m).pending = s.pending := by rw [appendNote_frame]
@[simp] theorem appendNote_matchEntry (m : Note) (j : Fin 32) : (s.appendNote m).matchEntry j = s.matchEntry j := by
  simp [matchEntry]
@[simp] theorem appendNote_slot (m : Note) (num : SlotId) : (s.appendNote m).slot num = s.slot num := by
  simp [slot]
@[simp] theorem appendNote_track (m : Note) (u : Tag) : (s.appendNote m).track u = s.track u := by
  simp [track]
@[simp] theorem appendNote_order (m : Note) (v : SourceId) : (s.appendNote m).order v = s.order v := by
  simp [order]

/-! ### `completeDrain` -/

theorem completeDrain_frame :
    s.completeDrain = { s with mode := s.completeDrain.mode, alerts := s.completeDrain.alerts } := by
  unfold completeDrain; split <;> rfl

@[simp] theorem completeDrain_table : s.completeDrain.table = s.table := by rw [completeDrain_frame]
@[simp] theorem completeDrain_work : s.completeDrain.work = s.work := by rw [completeDrain_frame]
@[simp] theorem completeDrain_slots : s.completeDrain.slots = s.slots := by rw [completeDrain_frame]
@[simp] theorem completeDrain_captureSeq : s.completeDrain.captureSeq = s.captureSeq := by rw [completeDrain_frame]
@[simp] theorem completeDrain_history : s.completeDrain.history = s.history := by rw [completeDrain_frame]
@[simp] theorem completeDrain_queue : s.completeDrain.queue = s.queue := by rw [completeDrain_frame]
@[simp] theorem completeDrain_banks : s.completeDrain.banks = s.banks := by rw [completeDrain_frame]
@[simp] theorem completeDrain_session : s.completeDrain.session = s.session := by rw [completeDrain_frame]
@[simp] theorem completeDrain_tracker : s.completeDrain.tracker = s.tracker := by rw [completeDrain_frame]
@[simp] theorem completeDrain_timeBase : s.completeDrain.timeBase = s.timeBase := by rw [completeDrain_frame]
@[simp] theorem completeDrain_toolLink : s.completeDrain.toolLink = s.toolLink := by rw [completeDrain_frame]
@[simp] theorem completeDrain_porstAsserted : s.completeDrain.porstAsserted = s.porstAsserted := by rw [completeDrain_frame]
@[simp] theorem completeDrain_srstAsserted : s.completeDrain.srstAsserted = s.srstAsserted := by rw [completeDrain_frame]
@[simp] theorem completeDrain_sportResponse : s.completeDrain.sportResponse = s.sportResponse := by rw [completeDrain_frame]
@[simp] theorem completeDrain_mportRequest : s.completeDrain.mportRequest = s.mportRequest := by rw [completeDrain_frame]
@[simp] theorem completeDrain_pending : s.completeDrain.pending = s.pending := by rw [completeDrain_frame]
@[simp] theorem completeDrain_matchEntry (j : Fin 32) : s.completeDrain.matchEntry j = s.matchEntry j := by
  simp [matchEntry]
@[simp] theorem completeDrain_slot (num : SlotId) : s.completeDrain.slot num = s.slot num := by
  simp [slot]
@[simp] theorem completeDrain_track (u : Tag) : s.completeDrain.track u = s.track u := by
  simp [track]
@[simp] theorem completeDrain_order (v : SourceId) : s.completeDrain.order v = s.order v := by
  simp [order]

/-! ### `slotServedLeft` -/

theorem slotServedLeft_frame (b : Bool) :
    (s.slotServedLeft b) = { s with mode := (s.slotServedLeft b).mode, alerts := (s.slotServedLeft b).alerts } := by
  cases b with
  | false => rfl
  | true => exact completeDrain_frame s

@[simp] theorem slotServedLeft_table (b : Bool) : (s.slotServedLeft b).table = s.table := by rw [slotServedLeft_frame]
@[simp] theorem slotServedLeft_work (b : Bool) : (s.slotServedLeft b).work = s.work := by rw [slotServedLeft_frame]
@[simp] theorem slotServedLeft_slots (b : Bool) : (s.slotServedLeft b).slots = s.slots := by rw [slotServedLeft_frame]
@[simp] theorem slotServedLeft_captureSeq (b : Bool) : (s.slotServedLeft b).captureSeq = s.captureSeq := by rw [slotServedLeft_frame]
@[simp] theorem slotServedLeft_history (b : Bool) : (s.slotServedLeft b).history = s.history := by rw [slotServedLeft_frame]
@[simp] theorem slotServedLeft_queue (b : Bool) : (s.slotServedLeft b).queue = s.queue := by rw [slotServedLeft_frame]
@[simp] theorem slotServedLeft_banks (b : Bool) : (s.slotServedLeft b).banks = s.banks := by rw [slotServedLeft_frame]
@[simp] theorem slotServedLeft_session (b : Bool) : (s.slotServedLeft b).session = s.session := by rw [slotServedLeft_frame]
@[simp] theorem slotServedLeft_tracker (b : Bool) : (s.slotServedLeft b).tracker = s.tracker := by rw [slotServedLeft_frame]
@[simp] theorem slotServedLeft_timeBase (b : Bool) : (s.slotServedLeft b).timeBase = s.timeBase := by rw [slotServedLeft_frame]
@[simp] theorem slotServedLeft_toolLink (b : Bool) : (s.slotServedLeft b).toolLink = s.toolLink := by rw [slotServedLeft_frame]
@[simp] theorem slotServedLeft_porstAsserted (b : Bool) : (s.slotServedLeft b).porstAsserted = s.porstAsserted := by rw [slotServedLeft_frame]
@[simp] theorem slotServedLeft_srstAsserted (b : Bool) : (s.slotServedLeft b).srstAsserted = s.srstAsserted := by rw [slotServedLeft_frame]
@[simp] theorem slotServedLeft_sportResponse (b : Bool) : (s.slotServedLeft b).sportResponse = s.sportResponse := by rw [slotServedLeft_frame]
@[simp] theorem slotServedLeft_mportRequest (b : Bool) : (s.slotServedLeft b).mportRequest = s.mportRequest := by rw [slotServedLeft_frame]
@[simp] theorem slotServedLeft_pending (b : Bool) : (s.slotServedLeft b).pending = s.pending := by rw [slotServedLeft_frame]
@[simp] theorem slotServedLeft_matchEntry (b : Bool) (j : Fin 32) : (s.slotServedLeft b).matchEntry j = s.matchEntry j := by
  simp [matchEntry]
@[simp] theorem slotServedLeft_slot (b : Bool) (num : SlotId) : (s.slotServedLeft b).slot num = s.slot num := by
  simp [slot]
@[simp] theorem slotServedLeft_track (b : Bool) (u : Tag) : (s.slotServedLeft b).track u = s.track u := by
  simp [track]
@[simp] theorem slotServedLeft_order (b : Bool) (v : SourceId) : (s.slotServedLeft b).order v = s.order v := by
  simp [order]

/-! ### `linkFault` -/

@[simp] theorem linkFault_table (r : LinkReason) : (s.linkFault r).table = s.table := rfl
@[simp] theorem linkFault_mode (r : LinkReason) : (s.linkFault r).mode = s.mode := rfl
@[simp] theorem linkFault_work (r : LinkReason) : (s.linkFault r).work = s.work := rfl
@[simp] theorem linkFault_slots (r : LinkReason) : (s.linkFault r).slots = s.slots := rfl
@[simp] theorem linkFault_captureSeq (r : LinkReason) : (s.linkFault r).captureSeq = s.captureSeq := rfl
@[simp] theorem linkFault_history (r : LinkReason) : (s.linkFault r).history = s.history := rfl
@[simp] theorem linkFault_queue (r : LinkReason) : (s.linkFault r).queue = s.queue := rfl
@[simp] theorem linkFault_banks (r : LinkReason) : (s.linkFault r).banks = s.banks := rfl
@[simp] theorem linkFault_session (r : LinkReason) : (s.linkFault r).session = s.session := rfl
@[simp] theorem linkFault_tracker (r : LinkReason) : (s.linkFault r).tracker = s.tracker := rfl
@[simp] theorem linkFault_timeBase (r : LinkReason) : (s.linkFault r).timeBase = s.timeBase := rfl
@[simp] theorem linkFault_porstAsserted (r : LinkReason) : (s.linkFault r).porstAsserted = s.porstAsserted := rfl
@[simp] theorem linkFault_srstAsserted (r : LinkReason) : (s.linkFault r).srstAsserted = s.srstAsserted := rfl
@[simp] theorem linkFault_sportResponse (r : LinkReason) : (s.linkFault r).sportResponse = s.sportResponse := rfl
@[simp] theorem linkFault_mportRequest (r : LinkReason) : (s.linkFault r).mportRequest = s.mportRequest := rfl
@[simp] theorem linkFault_pending (r : LinkReason) : (s.linkFault r).pending = s.pending := rfl
@[simp] theorem linkFault_matchEntry (r : LinkReason) (j : Fin 32) : (s.linkFault r).matchEntry j = s.matchEntry j := by
  simp [matchEntry]
@[simp] theorem linkFault_slot (r : LinkReason) (num : SlotId) : (s.linkFault r).slot num = s.slot num := by
  simp [slot]
@[simp] theorem linkFault_track (r : LinkReason) (u : Tag) : (s.linkFault r).track u = s.track u := by
  simp [track]
@[simp] theorem linkFault_order (r : LinkReason) (v : SourceId) : (s.linkFault r).order v = s.order v := by
  simp [order]

/-! ### `tick` -/

@[simp] theorem tick_table : (s.tick).table = s.table := rfl
@[simp] theorem tick_mode : (s.tick).mode = s.mode := rfl
@[simp] theorem tick_slots : (s.tick).slots = s.slots := rfl
@[simp] theorem tick_captureSeq : (s.tick).captureSeq = s.captureSeq := rfl
@[simp] theorem tick_history : (s.tick).history = s.history := rfl
@[simp] theorem tick_queue : (s.tick).queue = s.queue := rfl
@[simp] theorem tick_banks : (s.tick).banks = s.banks := rfl
@[simp] theorem tick_session : (s.tick).session = s.session := rfl
@[simp] theorem tick_alerts : (s.tick).alerts = s.alerts := rfl
@[simp] theorem tick_toolLink : (s.tick).toolLink = s.toolLink := rfl
@[simp] theorem tick_porstAsserted : (s.tick).porstAsserted = s.porstAsserted := rfl
@[simp] theorem tick_srstAsserted : (s.tick).srstAsserted = s.srstAsserted := rfl
@[simp] theorem tick_sportResponse : (s.tick).sportResponse = s.sportResponse := rfl
@[simp] theorem tick_mportRequest : (s.tick).mportRequest = s.mportRequest := rfl
@[simp] theorem tick_pending : (s.tick).pending = s.pending := rfl
@[simp] theorem tick_matchEntry (j : Fin 32) : (s.tick).matchEntry j = s.matchEntry j := by
  simp [matchEntry]
@[simp] theorem tick_slot (num : SlotId) : (s.tick).slot num = s.slot num := by
  simp [slot]
theorem tick_work : s.tick.work = s.work.map fun w => { w with stage := w.stage.tick } := rfl

/-! ### `deselect` -/

@[simp] theorem deselect_table : (s.deselect).table = s.table := rfl
@[simp] theorem deselect_mode : (s.deselect).mode = s.mode := rfl
@[simp] theorem deselect_work : (s.deselect).work = s.work := rfl
@[simp] theorem deselect_slots : (s.deselect).slots = s.slots := rfl
@[simp] theorem deselect_captureSeq : (s.deselect).captureSeq = s.captureSeq := rfl
@[simp] theorem deselect_history : (s.deselect).history = s.history := rfl
@[simp] theorem deselect_queue : (s.deselect).queue = s.queue := rfl
@[simp] theorem deselect_banks : (s.deselect).banks = s.banks := rfl
@[simp] theorem deselect_session : (s.deselect).session = s.session := rfl
@[simp] theorem deselect_tracker : (s.deselect).tracker = s.tracker := rfl
@[simp] theorem deselect_timeBase : (s.deselect).timeBase = s.timeBase := rfl
@[simp] theorem deselect_alerts : (s.deselect).alerts = s.alerts := rfl
@[simp] theorem deselect_porstAsserted : (s.deselect).porstAsserted = s.porstAsserted := rfl
@[simp] theorem deselect_srstAsserted : (s.deselect).srstAsserted = s.srstAsserted := rfl
@[simp] theorem deselect_sportResponse : (s.deselect).sportResponse = s.sportResponse := rfl
@[simp] theorem deselect_mportRequest : (s.deselect).mportRequest = s.mportRequest := rfl
@[simp] theorem deselect_pending : (s.deselect).pending = s.pending := rfl
@[simp] theorem deselect_matchEntry (j : Fin 32) : (s.deselect).matchEntry j = s.matchEntry j := by
  simp [matchEntry]
@[simp] theorem deselect_slot (num : SlotId) : (s.deselect).slot num = s.slot num := by
  simp [slot]
@[simp] theorem deselect_track (u : Tag) : (s.deselect).track u = s.track u := by
  simp [track]
@[simp] theorem deselect_order (v : SourceId) : (s.deselect).order v = s.order v := by
  simp [order]

/-! ### `replay` -/

theorem replay_frame :
    s.replay = { s with toolLink := s.replay.toolLink } := by
  unfold replay; split <;> rfl

@[simp] theorem replay_table : s.replay.table = s.table := by rw [replay_frame]
@[simp] theorem replay_mode : s.replay.mode = s.mode := by rw [replay_frame]
@[simp] theorem replay_work : s.replay.work = s.work := by rw [replay_frame]
@[simp] theorem replay_slots : s.replay.slots = s.slots := by rw [replay_frame]
@[simp] theorem replay_captureSeq : s.replay.captureSeq = s.captureSeq := by rw [replay_frame]
@[simp] theorem replay_history : s.replay.history = s.history := by rw [replay_frame]
@[simp] theorem replay_queue : s.replay.queue = s.queue := by rw [replay_frame]
@[simp] theorem replay_banks : s.replay.banks = s.banks := by rw [replay_frame]
@[simp] theorem replay_session : s.replay.session = s.session := by rw [replay_frame]
@[simp] theorem replay_tracker : s.replay.tracker = s.tracker := by rw [replay_frame]
@[simp] theorem replay_timeBase : s.replay.timeBase = s.timeBase := by rw [replay_frame]
@[simp] theorem replay_alerts : s.replay.alerts = s.alerts := by rw [replay_frame]
@[simp] theorem replay_porstAsserted : s.replay.porstAsserted = s.porstAsserted := by rw [replay_frame]
@[simp] theorem replay_srstAsserted : s.replay.srstAsserted = s.srstAsserted := by rw [replay_frame]
@[simp] theorem replay_sportResponse : s.replay.sportResponse = s.sportResponse := by rw [replay_frame]
@[simp] theorem replay_mportRequest : s.replay.mportRequest = s.mportRequest := by rw [replay_frame]
@[simp] theorem replay_pending : s.replay.pending = s.pending := by rw [replay_frame]
@[simp] theorem replay_matchEntry (j : Fin 32) : s.replay.matchEntry j = s.matchEntry j := by
  simp [matchEntry]
@[simp] theorem replay_slot (num : SlotId) : s.replay.slot num = s.slot num := by
  simp [slot]
@[simp] theorem replay_track (u : Tag) : s.replay.track u = s.track u := by
  simp [track]
@[simp] theorem replay_order (v : SourceId) : s.replay.order v = s.order v := by
  simp [order]

/-! ### `abandon` -/

theorem abandon_frame (l : CaptureLink) :
    (s.abandon l) = { s with slots := (s.abandon l).slots } := by
  unfold abandon; split <;> rfl

@[simp] theorem abandon_table (l : CaptureLink) : (s.abandon l).table = s.table := by rw [abandon_frame]
@[simp] theorem abandon_mode (l : CaptureLink) : (s.abandon l).mode = s.mode := by rw [abandon_frame]
@[simp] theorem abandon_work (l : CaptureLink) : (s.abandon l).work = s.work := by rw [abandon_frame]
@[simp] theorem abandon_captureSeq (l : CaptureLink) : (s.abandon l).captureSeq = s.captureSeq := by rw [abandon_frame]
@[simp] theorem abandon_history (l : CaptureLink) : (s.abandon l).history = s.history := by rw [abandon_frame]
@[simp] theorem abandon_queue (l : CaptureLink) : (s.abandon l).queue = s.queue := by rw [abandon_frame]
@[simp] theorem abandon_banks (l : CaptureLink) : (s.abandon l).banks = s.banks := by rw [abandon_frame]
@[simp] theorem abandon_session (l : CaptureLink) : (s.abandon l).session = s.session := by rw [abandon_frame]
@[simp] theorem abandon_tracker (l : CaptureLink) : (s.abandon l).tracker = s.tracker := by rw [abandon_frame]
@[simp] theorem abandon_timeBase (l : CaptureLink) : (s.abandon l).timeBase = s.timeBase := by rw [abandon_frame]
@[simp] theorem abandon_alerts (l : CaptureLink) : (s.abandon l).alerts = s.alerts := by rw [abandon_frame]
@[simp] theorem abandon_toolLink (l : CaptureLink) : (s.abandon l).toolLink = s.toolLink := by rw [abandon_frame]
@[simp] theorem abandon_porstAsserted (l : CaptureLink) : (s.abandon l).porstAsserted = s.porstAsserted := by rw [abandon_frame]
@[simp] theorem abandon_srstAsserted (l : CaptureLink) : (s.abandon l).srstAsserted = s.srstAsserted := by rw [abandon_frame]
@[simp] theorem abandon_sportResponse (l : CaptureLink) : (s.abandon l).sportResponse = s.sportResponse := by rw [abandon_frame]
@[simp] theorem abandon_mportRequest (l : CaptureLink) : (s.abandon l).mportRequest = s.mportRequest := by rw [abandon_frame]
@[simp] theorem abandon_pending (l : CaptureLink) : (s.abandon l).pending = s.pending := by rw [abandon_frame]
@[simp] theorem abandon_matchEntry (l : CaptureLink) (j : Fin 32) : (s.abandon l).matchEntry j = s.matchEntry j := by
  simp [matchEntry]
@[simp] theorem abandon_track (l : CaptureLink) (u : Tag) : (s.abandon l).track u = s.track u := by
  simp [track]
@[simp] theorem abandon_order (l : CaptureLink) (v : SourceId) : (s.abandon l).order v = s.order v := by
  simp [order]

theorem foldl_abandon_frame (links : List CaptureLink) :
    links.foldl abandon s = { s with slots := (links.foldl abandon s).slots } := by
  induction links generalizing s with
  | nil => rfl
  | cons l rest ih =>
    rw [List.foldl_cons, ih]
    apply State.ext <;> simp

/-! ### `abandonLinked` -/

theorem abandonLinked_frame :
    s.abandonLinked = { s with slots := s.abandonLinked.slots } :=
  foldl_abandon_frame s _

@[simp] theorem abandonLinked_table : s.abandonLinked.table = s.table := by rw [abandonLinked_frame]
@[simp] theorem abandonLinked_mode : s.abandonLinked.mode = s.mode := by rw [abandonLinked_frame]
@[simp] theorem abandonLinked_work : s.abandonLinked.work = s.work := by rw [abandonLinked_frame]
@[simp] theorem abandonLinked_captureSeq : s.abandonLinked.captureSeq = s.captureSeq := by rw [abandonLinked_frame]
@[simp] theorem abandonLinked_history : s.abandonLinked.history = s.history := by rw [abandonLinked_frame]
@[simp] theorem abandonLinked_queue : s.abandonLinked.queue = s.queue := by rw [abandonLinked_frame]
@[simp] theorem abandonLinked_banks : s.abandonLinked.banks = s.banks := by rw [abandonLinked_frame]
@[simp] theorem abandonLinked_session : s.abandonLinked.session = s.session := by rw [abandonLinked_frame]
@[simp] theorem abandonLinked_tracker : s.abandonLinked.tracker = s.tracker := by rw [abandonLinked_frame]
@[simp] theorem abandonLinked_timeBase : s.abandonLinked.timeBase = s.timeBase := by rw [abandonLinked_frame]
@[simp] theorem abandonLinked_alerts : s.abandonLinked.alerts = s.alerts := by rw [abandonLinked_frame]
@[simp] theorem abandonLinked_toolLink : s.abandonLinked.toolLink = s.toolLink := by rw [abandonLinked_frame]
@[simp] theorem abandonLinked_porstAsserted : s.abandonLinked.porstAsserted = s.porstAsserted := by rw [abandonLinked_frame]
@[simp] theorem abandonLinked_srstAsserted : s.abandonLinked.srstAsserted = s.srstAsserted := by rw [abandonLinked_frame]
@[simp] theorem abandonLinked_sportResponse : s.abandonLinked.sportResponse = s.sportResponse := by rw [abandonLinked_frame]
@[simp] theorem abandonLinked_mportRequest : s.abandonLinked.mportRequest = s.mportRequest := by rw [abandonLinked_frame]
@[simp] theorem abandonLinked_pending : s.abandonLinked.pending = s.pending := by rw [abandonLinked_frame]
@[simp] theorem abandonLinked_matchEntry (j : Fin 32) : s.abandonLinked.matchEntry j = s.matchEntry j := by
  simp [matchEntry]
@[simp] theorem abandonLinked_track (u : Tag) : s.abandonLinked.track u = s.track u := by
  simp [track]
@[simp] theorem abandonLinked_order (v : SourceId) : s.abandonLinked.order v = s.order v := by
  simp [order]

/-! ### `discardWork` -/

theorem discardWork_frame :
    s.discardWork = { s with table := s.discardWork.table, work := s.discardWork.work } := by
  unfold discardWork; repeat' split
  all_goals first | rfl | (rw [retire_frame]; rfl)

@[simp] theorem discardWork_work : s.discardWork.work = none := by
  unfold discardWork; split
  · assumption
  · split <;> rfl
@[simp] theorem discardWork_mode : s.discardWork.mode = s.mode := by rw [discardWork_frame]
@[simp] theorem discardWork_slots : s.discardWork.slots = s.slots := by rw [discardWork_frame]
@[simp] theorem discardWork_captureSeq : s.discardWork.captureSeq = s.captureSeq := by rw [discardWork_frame]
@[simp] theorem discardWork_history : s.discardWork.history = s.history := by rw [discardWork_frame]
@[simp] theorem discardWork_queue : s.discardWork.queue = s.queue := by rw [discardWork_frame]
@[simp] theorem discardWork_banks : s.discardWork.banks = s.banks := by rw [discardWork_frame]
@[simp] theorem discardWork_session : s.discardWork.session = s.session := by rw [discardWork_frame]
@[simp] theorem discardWork_tracker : s.discardWork.tracker = s.tracker := by rw [discardWork_frame]
@[simp] theorem discardWork_timeBase : s.discardWork.timeBase = s.timeBase := by rw [discardWork_frame]
@[simp] theorem discardWork_alerts : s.discardWork.alerts = s.alerts := by rw [discardWork_frame]
@[simp] theorem discardWork_toolLink : s.discardWork.toolLink = s.toolLink := by rw [discardWork_frame]
@[simp] theorem discardWork_porstAsserted : s.discardWork.porstAsserted = s.porstAsserted := by rw [discardWork_frame]
@[simp] theorem discardWork_srstAsserted : s.discardWork.srstAsserted = s.srstAsserted := by rw [discardWork_frame]
@[simp] theorem discardWork_sportResponse : s.discardWork.sportResponse = s.sportResponse := by rw [discardWork_frame]
@[simp] theorem discardWork_mportRequest : s.discardWork.mportRequest = s.mportRequest := by rw [discardWork_frame]
@[simp] theorem discardWork_pending : s.discardWork.pending = s.pending := by rw [discardWork_frame]
@[simp] theorem discardWork_slot (num : SlotId) : s.discardWork.slot num = s.slot num := by
  simp [slot]
@[simp] theorem discardWork_track (u : Tag) : s.discardWork.track u = s.track u := by
  simp [track]
@[simp] theorem discardWork_order (v : SourceId) : s.discardWork.order v = s.order v := by
  simp [order]

/-! ### `resetPath` -/

@[simp] theorem resetPath_table : s.resetPath.table = s.table := rfl
@[simp] theorem resetPath_mode : s.resetPath.mode = s.mode := rfl
@[simp] theorem resetPath_work : s.resetPath.work = s.work := rfl
@[simp] theorem resetPath_slots : s.resetPath.slots = s.slots := rfl
@[simp] theorem resetPath_captureSeq : s.resetPath.captureSeq = s.captureSeq := rfl
@[simp] theorem resetPath_history : s.resetPath.history = s.history := rfl
@[simp] theorem resetPath_queue : s.resetPath.queue = s.queue := rfl
@[simp] theorem resetPath_banks : s.resetPath.banks = s.banks := rfl
@[simp] theorem resetPath_session : s.resetPath.session = s.session := rfl
@[simp] theorem resetPath_timeBase : s.resetPath.timeBase = s.timeBase := rfl
@[simp] theorem resetPath_alerts : s.resetPath.alerts = s.alerts := rfl
@[simp] theorem resetPath_toolLink : s.resetPath.toolLink = s.toolLink := rfl
@[simp] theorem resetPath_porstAsserted : s.resetPath.porstAsserted = s.porstAsserted := rfl
@[simp] theorem resetPath_srstAsserted : s.resetPath.srstAsserted = s.srstAsserted := rfl
@[simp] theorem resetPath_sportResponse : s.resetPath.sportResponse = s.sportResponse := rfl
@[simp] theorem resetPath_mportRequest : s.resetPath.mportRequest = s.mportRequest := rfl
@[simp] theorem resetPath_pending : s.resetPath.pending = s.pending := rfl
@[simp] theorem resetPath_matchEntry (j : Fin 32) : s.resetPath.matchEntry j = s.matchEntry j := by
  simp [matchEntry]
@[simp] theorem resetPath_slot (num : SlotId) : s.resetPath.slot num = s.slot num := by
  simp [slot]

end Sys2Proof.Machine.State
end

