-- ==== Sys2Proof/Laws/Link.lean ====
section
/-! SUPPORT. What the taking of a command frame comes to, case by case. -/

namespace Sys2Proof.Machine

/-- A period that the Link takes. -/
theorem takePeriod_of_takes {s : State} (h : s.TakesPeriods) (take : State → State) : takePeriod take s = take s := by
  unfold takePeriod
  exact if_neg (by simp [h.1, h.2])

/-- The end of a low period of TL_CS_N that is no period (R147). -/
theorem takePeriod_of_not {s : State} (h : ¬ s.TakesPeriods) (take : State → State) : takePeriod take s = s.deselect := by
  unfold takePeriod
  refine if_pos (Classical.byContradiction fun hn => h ⟨?_, ?_⟩)
  · exact Bool.eq_false_iff.mpr fun hp => hn (.inl hp)
  · exact Bool.eq_false_iff.mpr fun hw => hn (.inr hw)

/-- A command frame that is executed runs, and its answer is stored (R151). -/
theorem linkExecute_of_executes {code seq : Byte} {s : State} (h : s.Executes code seq) (run : State → State × Answer) :
    linkExecute code seq run s = (run s).1.store code seq (run s).2 := by
  unfold linkExecute
  rw [takePeriod_of_takes h.1, if_neg h.2]

/-- A command frame that repeats the stored pair is replayed (R152). -/
theorem linkExecute_of_stored {code seq : Byte} {s : State} {c : StoredCommand} (hp : s.TakesPeriods)
    (h : s.toolLink.stored = some c) (hc : code = c.code) (hq : seq = c.seq) (run : State → State × Answer) :
    linkExecute code seq run s = s.setOutgoing (replayFrame c) := by
  unfold linkExecute
  rw [takePeriod_of_takes hp]
  simp [State.storedPair, h, State.replay, hc, hq]

/-- While PORST_N is low, or the Link waits for TL_CS_N to go high, no frame is taken (R147). -/
theorem linkExecute_of_not {s : State} (h : ¬ s.TakesPeriods) (code seq : Byte) (run : State → State × Answer) :
    linkExecute code seq run s = s.deselect := takePeriod_of_not h _

/-- What a command frame can do: nothing but the rise of TL_CS_N, a replay, or an execution whose answer is stored. -/
theorem linkExecute_cases (code seq : Byte) (run : State → State × Answer) (s : State) :
    linkExecute code seq run s = s.deselect ∨ linkExecute code seq run s = s.replay
      ∨ linkExecute code seq run s = (run s).1.store code seq (run s).2 := by
  by_cases hp : s.TakesPeriods
  · unfold linkExecute
    rw [takePeriod_of_takes hp]
    split
    · exact .inr (.inl rfl)
    · exact .inr (.inr rfl)
  · exact .inl (linkExecute_of_not hp code seq run)

theorem withEntry_of_ge {index : Byte} (h : 32 ≤ index.toNat) (run : Fin 32 → State → State × Answer) (s : State) :
    withEntry index run s = (s, badArg .index) := by
  simp [withEntry, Nat.not_lt.mpr h]

theorem withEntry_of_eq {index : Byte} {i : Fin 32} (h : index.toNat = i.val) (run : Fin 32 → State → State × Answer)
    (s : State) : withEntry index run s = run i s := by
  simp [withEntry, h]

theorem withSlot_of_ge {slot : Byte} (h : 64 ≤ slot.toNat) (run : SlotId → State → State × Answer) (s : State) :
    withSlot slot run s = (s, badArg .slotRange) := by
  simp [withSlot, Nat.not_lt.mpr h]

theorem withSlot_of_eq {slot : Byte} {n : SlotId} (h : slot.toNat = n.val) (run : SlotId → State → State × Answer)
    (s : State) : withSlot slot run s = run n s := by
  simp [withSlot, h]

theorem withEntry_cases (index : Byte) (run : Fin 32 → State → State × Answer) (s : State) :
    withEntry index run s = (s, badArg .index) ∨ ∃ i : Fin 32, index.toNat = i.val ∧ withEntry index run s = run i s := by
  by_cases h : index.toNat < 32
  · exact .inr ⟨⟨index.toNat, h⟩, rfl, by simp [withEntry, h]⟩
  · exact .inl (withEntry_of_ge (Nat.not_lt.mp h) run s)

theorem withSlot_cases (slot : Byte) (run : SlotId → State → State × Answer) (s : State) :
    withSlot slot run s = (s, badArg .slotRange) ∨ ∃ n : SlotId, slot.toNat = n.val ∧ withSlot slot run s = run n s := by
  by_cases h : slot.toNat < 64
  · exact .inr ⟨⟨slot.toNat, h⟩, rfl, by simp [withSlot, h]⟩
  · exact .inl (withSlot_of_ge (Nat.not_lt.mp h) run s)

end Sys2Proof.Machine
end

