-- ==== Sys2Proof/Laws/Exec.lean ====
section
/-! SUPPORT. The frame of every tool command and of every meaning: which parts of the state it can change. -/

namespace Sys2Proof.Machine

/-! ### The tool commands -/

theorem getStatus_frame (s : State) :
    (getStatus s).1 = s := rfl

theorem clearUnit_frame (s : State) :
    (clearUnit s).1 = { s with table := (clearUnit s).1.table, slots := (clearUnit s).1.slots, captureSeq := (clearUnit s).1.captureSeq, history := (clearUnit s).1.history, queue := (clearUnit s).1.queue, banks := (clearUnit s).1.banks, session := (clearUnit s).1.session, tracker := (clearUnit s).1.tracker, alerts := (clearUnit s).1.alerts } := by
  unfold clearUnit State.clearUnit
  apply State.ext <;> (repeat' split) <;> simp

theorem writeEntry_frame (image : EntryImage) (i : Fin 32) (s : State) :
    (writeEntry image i s).1 = { s with table := (writeEntry image i s).1.table } := by
  unfold writeEntry
  apply State.ext <;> (repeat' split) <;> simp

theorem readEntry_frame (i : Fin 32) (s : State) :
    (readEntry i s).1 = s := rfl

theorem enableEntry_frame (i : Fin 32) (s : State) :
    (enableEntry i s).1 = { s with table := (enableEntry i s).1.table, work := (enableEntry i s).1.work } := by
  unfold enableEntry State.turnOn
  apply State.ext <;> (repeat' split) <;> simp

theorem disableEntry_frame (i : Fin 32) (s : State) :
    (disableEntry i s).1 = { s with table := (disableEntry i s).1.table } := by
  unfold disableEntry
  apply State.ext <;> (repeat' split) <;> simp

theorem clearEntryCounts_frame (i : Fin 32) (s : State) :
    (clearEntryCounts i s).1 = { s with table := (clearEntryCounts i s).1.table } := by
  unfold clearEntryCounts
  apply State.ext <;> simp

theorem setMode_frame (mode : Byte) (s : State) :
    (setMode mode s).1 = { s with mode := (setMode mode s).1.mode, work := (setMode mode s).1.work, tracker := (setMode mode s).1.tracker, table := (setMode mode s).1.table, alerts := (setMode mode s).1.alerts } := by
  unfold setMode modeBypass modeActive State.endStallByMode
  apply State.ext <;> (repeat' split) <;> simp

theorem takeSlot_frame (n : SlotId) (s : State) :
    (takeSlot n s).1 = { s with slots := (takeSlot n s).1.slots } := by
  unfold takeSlot
  apply State.ext <;> (repeat' split) <;> simp

theorem releaseSlot_frame (n : SlotId) (s : State) :
    (releaseSlot n s).1 = { s with slots := (releaseSlot n s).1.slots, tracker := (releaseSlot n s).1.tracker, work := (releaseSlot n s).1.work, table := (releaseSlot n s).1.table, alerts := (releaseSlot n s).1.alerts } := by
  unfold releaseSlot
  apply State.ext <;> (repeat' split) <;> simp

theorem writeSlot_frame (offset length : Byte) (data : Line) (n : SlotId) (s : State) :
    (writeSlot offset length data n s).1 = { s with slots := (writeSlot offset length data n s).1.slots } := by
  unfold writeSlot
  apply State.ext <;> (repeat' split) <;> simp

theorem readSlot_frame (n : SlotId) (s : State) :
    (readSlot n s).1 = s := rfl

theorem ackSlot_frame (sequence : HalfWord) (n : SlotId) (s : State) :
    (ackSlot sequence n s).1 = { s with slots := (ackSlot sequence n s).1.slots } := by
  unfold ackSlot
  apply State.ext <;> (repeat' split) <;> simp

theorem readHistory_frame (s : State) :
    (readHistory s).1 = { s with history := (readHistory s).1.history } := by
  unfold readHistory
  apply State.ext <;> (repeat' split) <;> simp

theorem configQueue_frame (first count mode watermark : Byte) (s : State) :
    (configQueue first count mode watermark s).1 = { s with slots := (configQueue first count mode watermark s).1.slots, queue := (configQueue first count mode watermark s).1.queue } := by
  unfold configQueue unconfigureQueue configureQueue State.reconfigure
  apply State.ext <;> (repeat' split) <;> simp

theorem popQueue_frame (s : State) :
    (popQueue s).1 = { s with slots := (popQueue s).1.slots, queue := (popQueue s).1.queue } := by
  unfold popQueue State.removeOldest
  apply State.ext <;> (repeat' split) <;> simp

theorem switchBank_frame (group bank : Byte) (s : State) :
    (switchBank group bank s).1 = { s with banks := (switchBank group bank s).1.banks, slots := (switchBank group bank s).1.slots, tracker := (switchBank group bank s).1.tracker, work := (switchBank group bank s).1.work, table := (switchBank group bank s).1.table, alerts := (switchBank group bank s).1.alerts } := by
  unfold switchBank setBank State.rederiveGroup State.rederive
  apply State.ext <;> (repeat' split) <;> simp

theorem sessionArm_frame (count : Byte) (s : State) :
    (sessionArm count s).1 = { s with session := (sessionArm count s).1.session, work := (sessionArm count s).1.work } := by
  unfold sessionArm
  apply State.ext <;> (repeat' split) <;> simp

theorem sessionRun_frame (count : Byte) (s : State) :
    (sessionRun count s).1 = { s with session := (sessionRun count s).1.session, work := (sessionRun count s).1.work } := by
  unfold sessionRun
  apply State.ext <;> (repeat' split) <;> simp

theorem sessionHalt_frame (s : State) :
    (sessionHalt s).1 = { s with session := (sessionHalt s).1.session, alerts := (sessionHalt s).1.alerts } := by
  unfold sessionHalt
  apply State.ext <;> (repeat' split) <;> simp

theorem sessionClear_frame (s : State) :
    (sessionClear s).1 = { s with slots := (sessionClear s).1.slots, queue := (sessionClear s).1.queue, history := (sessionClear s).1.history, session := (sessionClear s).1.session } := by
  unfold sessionClear State.clearSession
  apply State.ext <;> (repeat' split) <;> simp

theorem setLimits_frame (response stall : HalfWord) (s : State) :
    (setLimits response stall s).1 = { s with tracker := (setLimits response stall s).1.tracker } := by
  unfold setLimits
  apply State.ext <;> simp

theorem setTimebase_frame (prescaler : HalfWord) (load : Byte) (value : Stamp) (s : State) :
    (setTimebase prescaler load value s).1 = { s with timeBase := (setTimebase prescaler load value s).1.timeBase } := by
  unfold setTimebase
  apply State.ext <;> (repeat' split) <;> simp

theorem readCounters_frame (s : State) :
    (readCounters s).1 = s := rfl

theorem clearCounters_frame (image : HalfWord) (s : State) :
    (clearCounters image s).1 = { s with alerts := (clearCounters image s).1.alerts } := by
  unfold clearCounters
  apply State.ext <;> (repeat' split) <;> simp

theorem setAlertEnable_frame (image : HalfWord) (s : State) :
    (setAlertEnable image s).1 = { s with alerts := (setAlertEnable image s).1.alerts } := by
  unfold setAlertEnable
  apply State.ext <;> (repeat' split) <;> simp

theorem ackAlert_frame (image : HalfWord) (s : State) :
    (ackAlert image s).1 = { s with alerts := (ackAlert image s).1.alerts } := by
  unfold ackAlert
  apply State.ext <;> (repeat' split) <;> simp

/-! ### The meanings -/

theorem execGetStatus_frame (seq : Byte) {s t : State} (h : execGetStatus seq s = .next t) :
    t = { s with toolLink := t.toolLink } := by
  unfold execGetStatus at h
  injection h with h
  rcases linkExecute_cases _ _ _ s with e | e | e <;> rw [e] at h <;> subst h
  · rfl
  · apply State.ext <;> simp
  · rw [getStatus_frame]; rfl

theorem execClearUnit_frame (seq : Byte) {s t : State} (h : execClearUnit seq s = .next t) :
    t = { s with table := t.table, slots := t.slots, captureSeq := t.captureSeq, history := t.history, queue := t.queue, banks := t.banks, session := t.session, tracker := t.tracker, alerts := t.alerts, toolLink := t.toolLink } := by
  unfold execClearUnit at h
  injection h with h
  rcases linkExecute_cases _ _ _ s with e | e | e <;> rw [e] at h <;> subst h
  · rfl
  · apply State.ext <;> simp
  · rw [clearUnit_frame]; rfl

theorem execWriteEntry_frame (seq index : Byte) (image : EntryImage) {s t : State} (h : execWriteEntry seq index image s = .next t) :
    t = { s with table := t.table, toolLink := t.toolLink } := by
  unfold execWriteEntry at h
  injection h with h
  rcases linkExecute_cases _ _ _ s with e | e | e <;> rw [e] at h <;> subst h
  · rfl
  · apply State.ext <;> simp
  · rcases withEntry_cases index (writeEntry image) s with e | ⟨i, _, e⟩ <;> rw [e]
    · rfl
    · rw [writeEntry_frame]; rfl

theorem execReadEntry_frame (seq index : Byte) {s t : State} (h : execReadEntry seq index s = .next t) :
    t = { s with toolLink := t.toolLink } := by
  unfold execReadEntry at h
  injection h with h
  rcases linkExecute_cases _ _ _ s with e | e | e <;> rw [e] at h <;> subst h
  · rfl
  · apply State.ext <;> simp
  · rcases withEntry_cases index (readEntry) s with e | ⟨i, _, e⟩ <;> rw [e]
    · rfl
    · rw [readEntry_frame]; rfl

theorem execEnableEntry_frame (seq index : Byte) {s t : State} (h : execEnableEntry seq index s = .next t) :
    t = { s with table := t.table, toolLink := t.toolLink, work := t.work } := by
  unfold execEnableEntry at h
  injection h with h
  rcases linkExecute_cases _ _ _ s with e | e | e <;> rw [e] at h <;> subst h
  · rfl
  · apply State.ext <;> simp
  · rcases withEntry_cases index (enableEntry) s with e | ⟨i, _, e⟩ <;> rw [e]
    · rfl
    · rw [enableEntry_frame]; rfl

theorem execDisableEntry_frame (seq index : Byte) {s t : State} (h : execDisableEntry seq index s = .next t) :
    t = { s with table := t.table, toolLink := t.toolLink } := by
  unfold execDisableEntry at h
  injection h with h
  rcases linkExecute_cases _ _ _ s with e | e | e <;> rw [e] at h <;> subst h
  · rfl
  · apply State.ext <;> simp
  · rcases withEntry_cases index (disableEntry) s with e | ⟨i, _, e⟩ <;> rw [e]
    · rfl
    · rw [disableEntry_frame]; rfl

theorem execClearEntryCounts_frame (seq index : Byte) {s t : State} (h : execClearEntryCounts seq index s = .next t) :
    t = { s with table := t.table, toolLink := t.toolLink } := by
  unfold execClearEntryCounts at h
  injection h with h
  rcases linkExecute_cases _ _ _ s with e | e | e <;> rw [e] at h <;> subst h
  · rfl
  · apply State.ext <;> simp
  · rcases withEntry_cases index (clearEntryCounts) s with e | ⟨i, _, e⟩ <;> rw [e]
    · rfl
    · rw [clearEntryCounts_frame]; rfl

theorem execSetMode_frame (seq mode : Byte) {s t : State} (h : execSetMode seq mode s = .next t) :
    t = { s with mode := t.mode, work := t.work, tracker := t.tracker, toolLink := t.toolLink, table := t.table, alerts := t.alerts } := by
  unfold execSetMode at h
  injection h with h
  rcases linkExecute_cases _ _ _ s with e | e | e <;> rw [e] at h <;> subst h
  · rfl
  · apply State.ext <;> simp
  · rw [setMode_frame]; rfl

theorem execTakeSlot_frame (seq slot : Byte) {s t : State} (h : execTakeSlot seq slot s = .next t) :
    t = { s with slots := t.slots, toolLink := t.toolLink } := by
  unfold execTakeSlot at h
  injection h with h
  rcases linkExecute_cases _ _ _ s with e | e | e <;> rw [e] at h <;> subst h
  · rfl
  · apply State.ext <;> simp
  · rcases withSlot_cases slot (takeSlot) s with e | ⟨i, _, e⟩ <;> rw [e]
    · rfl
    · rw [takeSlot_frame]; rfl

theorem execReleaseSlot_frame (seq slot : Byte) {s t : State} (h : execReleaseSlot seq slot s = .next t) :
    t = { s with slots := t.slots, tracker := t.tracker, work := t.work, toolLink := t.toolLink, table := t.table, alerts := t.alerts } := by
  unfold execReleaseSlot at h
  injection h with h
  rcases linkExecute_cases _ _ _ s with e | e | e <;> rw [e] at h <;> subst h
  · rfl
  · apply State.ext <;> simp
  · rcases withSlot_cases slot (releaseSlot) s with e | ⟨i, _, e⟩ <;> rw [e]
    · rfl
    · rw [releaseSlot_frame]; rfl

theorem execWriteSlot_frame (seq slot offset length : Byte) (data : Line) {s t : State} (h : execWriteSlot seq slot offset length data s = .next t) :
    t = { s with slots := t.slots, toolLink := t.toolLink } := by
  unfold execWriteSlot at h
  injection h with h
  rcases linkExecute_cases _ _ _ s with e | e | e <;> rw [e] at h <;> subst h
  · rfl
  · apply State.ext <;> simp
  · rcases withSlot_cases slot (writeSlot offset length data) s with e | ⟨i, _, e⟩ <;> rw [e]
    · rfl
    · rw [writeSlot_frame]; rfl

theorem execReadSlot_frame (seq slot : Byte) {s t : State} (h : execReadSlot seq slot s = .next t) :
    t = { s with toolLink := t.toolLink } := by
  unfold execReadSlot at h
  injection h with h
  rcases linkExecute_cases _ _ _ s with e | e | e <;> rw [e] at h <;> subst h
  · rfl
  · apply State.ext <;> simp
  · rcases withSlot_cases slot (readSlot) s with e | ⟨i, _, e⟩ <;> rw [e]
    · rfl
    · rw [readSlot_frame]; rfl

theorem execAckSlot_frame (seq slot : Byte) (sequence : HalfWord) {s t : State} (h : execAckSlot seq slot sequence s = .next t) :
    t = { s with slots := t.slots, toolLink := t.toolLink } := by
  unfold execAckSlot at h
  injection h with h
  rcases linkExecute_cases _ _ _ s with e | e | e <;> rw [e] at h <;> subst h
  · rfl
  · apply State.ext <;> simp
  · rcases withSlot_cases slot (ackSlot sequence) s with e | ⟨i, _, e⟩ <;> rw [e]
    · rfl
    · rw [ackSlot_frame]; rfl

theorem execReadHistory_frame (seq : Byte) {s t : State} (h : execReadHistory seq s = .next t) :
    t = { s with history := t.history, toolLink := t.toolLink } := by
  unfold execReadHistory at h
  injection h with h
  rcases linkExecute_cases _ _ _ s with e | e | e <;> rw [e] at h <;> subst h
  · rfl
  · apply State.ext <;> simp
  · rw [readHistory_frame]; rfl

theorem execConfigQueue_frame (seq first count mode watermark : Byte) {s t : State} (h : execConfigQueue seq first count mode watermark s = .next t) :
    t = { s with slots := t.slots, queue := t.queue, toolLink := t.toolLink } := by
  unfold execConfigQueue at h
  injection h with h
  rcases linkExecute_cases _ _ _ s with e | e | e <;> rw [e] at h <;> subst h
  · rfl
  · apply State.ext <;> simp
  · rw [configQueue_frame]; rfl

theorem execPopQueue_frame (seq : Byte) {s t : State} (h : execPopQueue seq s = .next t) :
    t = { s with slots := t.slots, queue := t.queue, toolLink := t.toolLink } := by
  unfold execPopQueue at h
  injection h with h
  rcases linkExecute_cases _ _ _ s with e | e | e <;> rw [e] at h <;> subst h
  · rfl
  · apply State.ext <;> simp
  · rw [popQueue_frame]; rfl

theorem execSwitchBank_frame (seq group bank : Byte) {s t : State} (h : execSwitchBank seq group bank s = .next t) :
    t = { s with banks := t.banks, slots := t.slots, tracker := t.tracker, work := t.work, toolLink := t.toolLink, table := t.table, alerts := t.alerts } := by
  unfold execSwitchBank at h
  injection h with h
  rcases linkExecute_cases _ _ _ s with e | e | e <;> rw [e] at h <;> subst h
  · rfl
  · apply State.ext <;> simp
  · rw [switchBank_frame]; rfl

theorem execSessionArm_frame (seq count : Byte) {s t : State} (h : execSessionArm seq count s = .next t) :
    t = { s with session := t.session, toolLink := t.toolLink, work := t.work } := by
  unfold execSessionArm at h
  injection h with h
  rcases linkExecute_cases _ _ _ s with e | e | e <;> rw [e] at h <;> subst h
  · rfl
  · apply State.ext <;> simp
  · rw [sessionArm_frame]; rfl

theorem execSessionRun_frame (seq count : Byte) {s t : State} (h : execSessionRun seq count s = .next t) :
    t = { s with session := t.session, toolLink := t.toolLink, work := t.work } := by
  unfold execSessionRun at h
  injection h with h
  rcases linkExecute_cases _ _ _ s with e | e | e <;> rw [e] at h <;> subst h
  · rfl
  · apply State.ext <;> simp
  · rw [sessionRun_frame]; rfl

theorem execSessionHalt_frame (seq : Byte) {s t : State} (h : execSessionHalt seq s = .next t) :
    t = { s with session := t.session, alerts := t.alerts, toolLink := t.toolLink } := by
  unfold execSessionHalt at h
  injection h with h
  rcases linkExecute_cases _ _ _ s with e | e | e <;> rw [e] at h <;> subst h
  · rfl
  · apply State.ext <;> simp
  · rw [sessionHalt_frame]; rfl

theorem execSessionClear_frame (seq : Byte) {s t : State} (h : execSessionClear seq s = .next t) :
    t = { s with slots := t.slots, queue := t.queue, history := t.history, session := t.session, toolLink := t.toolLink } := by
  unfold execSessionClear at h
  injection h with h
  rcases linkExecute_cases _ _ _ s with e | e | e <;> rw [e] at h <;> subst h
  · rfl
  · apply State.ext <;> simp
  · rw [sessionClear_frame]; rfl

theorem execSetLimits_frame (seq : Byte) (response stall : HalfWord) {s t : State} (h : execSetLimits seq response stall s = .next t) :
    t = { s with tracker := t.tracker, toolLink := t.toolLink } := by
  unfold execSetLimits at h
  injection h with h
  rcases linkExecute_cases _ _ _ s with e | e | e <;> rw [e] at h <;> subst h
  · rfl
  · apply State.ext <;> simp
  · rw [setLimits_frame]; rfl

theorem execSetTimebase_frame (seq : Byte) (prescaler : HalfWord) (load : Byte) (value : Stamp) {s t : State} (h : execSetTimebase seq prescaler load value s = .next t) :
    t = { s with timeBase := t.timeBase, toolLink := t.toolLink } := by
  unfold execSetTimebase at h
  injection h with h
  rcases linkExecute_cases _ _ _ s with e | e | e <;> rw [e] at h <;> subst h
  · rfl
  · apply State.ext <;> simp
  · rw [setTimebase_frame]; rfl

theorem execReadCounters_frame (seq : Byte) {s t : State} (h : execReadCounters seq s = .next t) :
    t = { s with toolLink := t.toolLink } := by
  unfold execReadCounters at h
  injection h with h
  rcases linkExecute_cases _ _ _ s with e | e | e <;> rw [e] at h <;> subst h
  · rfl
  · apply State.ext <;> simp
  · rw [readCounters_frame]; rfl

theorem execClearCounters_frame (seq : Byte) (set : HalfWord) {s t : State} (h : execClearCounters seq set s = .next t) :
    t = { s with alerts := t.alerts, toolLink := t.toolLink } := by
  unfold execClearCounters at h
  injection h with h
  rcases linkExecute_cases _ _ _ s with e | e | e <;> rw [e] at h <;> subst h
  · rfl
  · apply State.ext <;> simp
  · rw [clearCounters_frame]; rfl

theorem execSetAlertEnable_frame (seq : Byte) (set : HalfWord) {s t : State} (h : execSetAlertEnable seq set s = .next t) :
    t = { s with alerts := t.alerts, toolLink := t.toolLink } := by
  unfold execSetAlertEnable at h
  injection h with h
  rcases linkExecute_cases _ _ _ s with e | e | e <;> rw [e] at h <;> subst h
  · rfl
  · apply State.ext <;> simp
  · rw [setAlertEnable_frame]; rfl

theorem execAckAlert_frame (seq : Byte) (set : HalfWord) {s t : State} (h : execAckAlert seq set s = .next t) :
    t = { s with alerts := t.alerts, toolLink := t.toolLink } := by
  unfold execAckAlert at h
  injection h with h
  rcases linkExecute_cases _ _ _ s with e | e | e <;> rw [e] at h <;> subst h
  · rfl
  · apply State.ext <;> simp
  · rw [ackAlert_frame]; rfl

theorem execPorstRelease_frame (chipSelected : Bool) {s t : State} (h : execPorstRelease s chipSelected = .next t) :
    t = { s with porstAsserted := t.porstAsserted, toolLink := t.toolLink } := by
  unfold execPorstRelease at h
  injection h with h
  subst h
  split <;> rfl

theorem execSrst_frame {s t : State} (h : execSrst s = .next t) :
    t = { s with table := t.table, mode := t.mode, work := t.work, slots := t.slots, tracker := t.tracker, alerts := t.alerts, srstAsserted := t.srstAsserted } := by
  replace h := Host.Outcome.next.inj h
  subst h
  apply State.ext <;> simp

theorem execSrstRelease_frame {s t : State} (h : execSrstRelease s = .next t) :
    t = { s with srstAsserted := t.srstAsserted } := by
  unfold execSrstRelease at h
  injection h with h
  subst h
  apply State.ext <;> (repeat' (first | split | dsimp only))

theorem execRequestAccept_frame (request : Request) {s t : State} (h : execRequestAccept request s = .next t) :
    t = { s with work := t.work, tracker := t.tracker, alerts := t.alerts } := by
  unfold execRequestAccept State.acceptValid State.acceptRejected at h
  injection h with h
  subst h
  apply State.ext <;> (repeat' (first | split | dsimp only)) <;> simp

theorem execClassify_frame {s t : State} (h : execClassify s = .next t) :
    t = { s with table := t.table, work := t.work, tracker := t.tracker } := by
  unfold execClassify State.govern at h
  injection h with h
  subst h
  apply State.ext <;> (repeat' (first | split | dsimp only)) <;> simp

theorem execStartTrigger_frame {s t : State} (h : execStartTrigger s = .next t) :
    t = { s with work := t.work, session := t.session } := by
  unfold execStartTrigger at h
  injection h with h
  subst h
  apply State.ext <;> (repeat' (first | split | dsimp only)) <;> simp

theorem execWatchAction_frame {s t : State} (h : execWatchAction s = .next t) :
    t = { s with work := t.work, tracker := t.tracker } := by
  unfold execWatchAction at h
  injection h with h
  subst h
  apply State.ext <;> (repeat' (first | split | dsimp only)) <;> simp

theorem execCaptureSlotAction_frame {s t : State} (h : execCaptureSlotAction s = .next t) :
    t = { s with table := t.table, work := t.work, slots := t.slots, captureSeq := t.captureSeq, tracker := t.tracker, alerts := t.alerts } := by
  unfold execCaptureSlotAction State.captureToSlot at h
  injection h with h
  subst h
  apply State.ext <;> (repeat' (first | split | dsimp only)) <;> simp

theorem execCaptureQueueAction_frame {s t : State} (h : execCaptureQueueAction s = .next t) :
    t = { s with work := t.work, slots := t.slots, captureSeq := t.captureSeq, queue := t.queue, tracker := t.tracker, alerts := t.alerts } := by
  unfold execCaptureQueueAction State.captureToQueue State.offerToQueue State.enqueue State.replaceOldest State.dropCapture State.linkQueueRecord at h
  injection h with h
  subst h
  apply State.ext <;> (repeat' (first | split | dsimp only)) <;> simp

theorem execOverlayAction_frame {s t : State} (h : execOverlayAction s = .next t) :
    t = { s with table := t.table, work := t.work, slots := t.slots, tracker := t.tracker } := by
  unfold execOverlayAction State.overlay State.serveAndGoOn State.fallBack State.beginStall at h
  injection h with h
  subst h
  apply State.ext <;> (repeat' (first | split | dsimp only)) <;> simp

theorem execHistoryAppend_frame {s t : State} (h : execHistoryAppend s = .next t) :
    t = { s with work := t.work, history := t.history, tracker := t.tracker, alerts := t.alerts } := by
  unfold execHistoryAppend at h
  injection h with h
  subst h
  apply State.ext <;> (repeat' (first | split | dsimp only)) <;> simp

theorem execRecordNotice_frame {s t : State} (h : execRecordNotice s = .next t) :
    t = { s with work := t.work, session := t.session, tracker := t.tracker, alerts := t.alerts } := by
  unfold execRecordNotice at h
  injection h with h
  subst h
  apply State.ext <;> (repeat' (first | split | dsimp only)) <;> simp

theorem execStopTrigger_frame {s t : State} (h : execStopTrigger s = .next t) :
    t = { s with work := t.work, session := t.session, alerts := t.alerts } := by
  unfold execStopTrigger at h
  injection h with h
  subst h
  apply State.ext <;> (repeat' (first | split | dsimp only)) <;> simp

theorem execOneShotRetire_frame {s t : State} (h : execOneShotRetire s = .next t) :
    t = { s with table := t.table, work := t.work } := by
  unfold execOneShotRetire at h
  injection h with h
  subst h
  apply State.ext <;> (repeat' (first | split | dsimp only)) <;> simp

theorem execMportSend_frame {s t : State} (h : execMportSend s = .next t) :
    t = { s with tracker := t.tracker, mportRequest := t.mportRequest } := by
  unfold execMportSend State.passOldest at h
  injection h with h
  subst h
  apply State.ext <;> (repeat' (first | split | dsimp only)) <;> simp

theorem execMemoryResponse_frame (tag : Tag) (status : MemStatus) (beats : List Beat) {s t : State} (h : execMemoryResponse tag status beats s = .next t) :
    t = { s with slots := t.slots, tracker := t.tracker, alerts := t.alerts } := by
  unfold execMemoryResponse State.takeResponse State.completeByResponse State.noticeFault at h
  injection h with h
  subst h
  apply State.ext <;> (repeat' (first | split | dsimp only)) <;> simp

theorem execTick_frame {s t : State} (h : execTick s = .next t) :
    t = { s with timeBase := t.timeBase, tracker := t.tracker, work := t.work, table := t.table, slots := t.slots, alerts := t.alerts } := by
  unfold execTick State.tick at h
  injection h with h
  subst h
  apply State.ext <;> (repeat' (first | split | dsimp only)) <;> simp

theorem execResponseLimitExpiry_frame (entry : Tag) {s t : State} (h : execResponseLimitExpiry entry s = .next t) :
    t = { s with slots := t.slots, tracker := t.tracker, alerts := t.alerts } := by
  unfold execResponseLimitExpiry at h
  injection h with h
  subst h
  apply State.ext <;> (repeat' (first | split | dsimp only)) <;> simp

theorem execStallLimitExpiry_frame {s t : State} (h : execStallLimitExpiry s = .next t) :
    t = { s with table := t.table, work := t.work, tracker := t.tracker, alerts := t.alerts } := by
  unfold execStallLimitExpiry at h
  injection h with h
  subst h
  apply State.ext <;> (repeat' (first | split | dsimp only)) <;> simp

theorem execArbiterGrant_frame {s t : State} (h : execArbiterGrant s = .next t) :
    t = { s with mode := t.mode, tracker := t.tracker, alerts := t.alerts, sportResponse := t.sportResponse } := by
  unfold execArbiterGrant State.release at h
  injection h with h
  subst h
  apply State.ext <;> (repeat' (first | split | dsimp only)) <;> simp

theorem execLinkFault_frame (period : Period) {s t : State} (h : execLinkFault period s = .next t) :
    t = { s with alerts := t.alerts, toolLink := t.toolLink } := by
  unfold execLinkFault takePeriod at h
  injection h with h
  subst h
  apply State.ext <;> (repeat' (first | split | dsimp only)) <;> simp

theorem execResync_frame {s t : State} (h : execResync s = .next t) :
    t = { s with toolLink := t.toolLink } := by
  unfold execResync takePeriod at h
  injection h with h
  subst h
  apply State.ext <;> (repeat' (first | split | dsimp only)) <;> simp

theorem execDuplicate_frame (code seq : Byte) {s t : State} (h : execDuplicate code seq s = .next t) :
    t = { s with toolLink := t.toolLink } := by
  unfold execDuplicate takePeriod at h
  injection h with h
  subst h
  apply State.ext <;> (repeat' (first | split | dsimp only)) <;> simp

theorem execNop_frame (seq : Byte) {s t : State} (h : execNop seq s = .next t) :
    t = { s with toolLink := t.toolLink } := by
  unfold execNop takePeriod at h
  injection h with h
  subst h
  apply State.ext <;> (repeat' (first | split | dsimp only)) <;> simp

theorem execUnknownCommand_frame (code seq : Byte) {s t : State} (h : execUnknownCommand code seq s = .next t) :
    t = { s with toolLink := t.toolLink } := by
  unfold execUnknownCommand at h
  injection h with h
  split at h
  · subst h; rfl
  · rcases linkExecute_cases _ _ _ s with e | e | e <;> rw [e] at h <;> subst h
    · rfl
    · apply State.ext <;> simp
    · rfl

/-- Every command ends in a next state. -/
theorem exec_next (c : Instr) (s : State) : ∃ t, exec c s = .next t := by
  cases c <;> exact ⟨_, rfl⟩

end Sys2Proof.Machine
end

