-- ==== Sys2Proof/Laws/Step.lean ====
section
/-! SUPPORT. How an invariant goes through a step and through the taking of a command frame. -/

namespace Sys2Proof.Machine

/-- An invariant that does not look at the waiting commands and that every command keeps is kept by every step. -/
theorem keptByEveryStep_of_exec {inv : State → Prop} (hp : ∀ s p, inv s → inv { s with pending := p })
    (h : ∀ c s t, inv s → exec c s = .next t → inv t) : KeptByEveryStep inv := by
  intro s t hs ht
  unfold step at ht
  split at ht
  · injection ht with ht
    subst ht
    exact hs
  · exact h _ _ _ (hp _ _ hs) ht

/-- An invariant that does not look at the Tool Link, and that the run of a command keeps, is kept by the taking of its
frame. -/
theorem linkExecute_keeps {inv : State → Prop} (hl : ∀ s l, inv s → inv { s with toolLink := l }) {s : State}
    (code seq : Byte) (run : State → State × Answer) (hs : inv s) (hr : inv (run s).1) :
    inv (linkExecute code seq run s) := by
  rcases linkExecute_cases code seq run s with h | h | h <;> rw [h]
  · exact hl _ _ hs
  · unfold State.replay
    split
    · exact hs
    · exact hl _ _ hs
  · exact hl _ _ hr

end Sys2Proof.Machine
end

