-- ==== Sys2Proof/Laws/Entries.lean ====
section
/-! SUPPORT. What a command can do to the match entries, and to the place of the queue run. -/

namespace Sys2Proof.Machine

/-- The place of the queue run is unchanged (R80). -/
def SameRun (s t : State) : Prop := t.queue.first = s.queue.first ∧ t.queue.count = s.queue.count

theorem sameRun_of_eq {s t : State} (h : t.queue = s.queue) : SameRun s t := by
  unfold SameRun; rw [h]; exact ⟨rfl, rfl⟩

theorem linkExecute_sameRun (run : State → State × Answer) (code seq : Byte) (s : State) (h : SameRun s (run s).1)
    : SameRun s (linkExecute code seq run s) := by
  rcases linkExecute_cases code seq run s with e | e | e <;> rw [e]
  · exact sameRun_of_eq rfl
  · refine sameRun_of_eq ?_; unfold State.replay; split <;> rfl
  · exact h

theorem sessionClear_sameRun (s : State) : SameRun s (sessionClear s).1 := by
  unfold sessionClear; split <;> exact ⟨rfl, rfl⟩

theorem popQueue_sameRun (s : State) : SameRun s (popQueue s).1 := by
  unfold popQueue; repeat' split
  all_goals exact ⟨rfl, rfl⟩

theorem captureQueueAction_sameRun (s t : State) (h : execCaptureQueueAction s = .next t) : SameRun s t := by
  unfold execCaptureQueueAction at h; injection h with h; subst h
  split
  · dsimp only
    split
    · split
      · unfold State.captureToQueue
        split
        · exact sameRun_of_eq (by simp)
        · split
          · unfold State.offerToQueue
            split
            · unfold State.enqueue State.linkQueueRecord; dsimp only; simp only [State.placeLink, SameRun]; split <;>
                  simp
            · split
              · exact sameRun_of_eq (by simp [State.dropCapture])
              · unfold State.replaceOldest State.linkQueueRecord; simp [State.placeLink, SameRun]
          · exact sameRun_of_eq (by simp)
      · exact sameRun_of_eq (by simp)
    · exact sameRun_of_eq rfl
  · exact sameRun_of_eq rfl

/-- The commands that keep the place of the queue run. -/
def KeepsRun : Instr → Prop
  | .configQueue .. => False
  | .clearUnit .. => False
  | .porst => False
  | _ => True

/-- What such a command does to the place of the queue run. -/
theorem exec_sameRun (c : Instr) (s t : State) (hc : KeepsRun c) (h : exec c s = .next t) : SameRun s t := by
  cases c with
  | porst => exact hc.elim
  | porstRelease low => have e := execPorstRelease_frame low h; exact sameRun_of_eq (by rw [e])
  | srst => have e := execSrst_frame h; exact sameRun_of_eq (by rw [e])
  | srstRelease => have e := execSrstRelease_frame h; exact sameRun_of_eq (by rw [e])
  | requestAccept request => have e := execRequestAccept_frame request h; exact sameRun_of_eq (by rw [e])
  | classify => have e := execClassify_frame h; exact sameRun_of_eq (by rw [e])
  | startTrigger => have e := execStartTrigger_frame h; exact sameRun_of_eq (by rw [e])
  | watchAction => have e := execWatchAction_frame h; exact sameRun_of_eq (by rw [e])
  | captureSlotAction => have e := execCaptureSlotAction_frame h; exact sameRun_of_eq (by rw [e])
  | captureQueueAction => exact captureQueueAction_sameRun s t h
  | overlayAction => have e := execOverlayAction_frame h; exact sameRun_of_eq (by rw [e])
  | historyAppend => have e := execHistoryAppend_frame h; exact sameRun_of_eq (by rw [e])
  | recordNotice => have e := execRecordNotice_frame h; exact sameRun_of_eq (by rw [e])
  | stopTrigger => have e := execStopTrigger_frame h; exact sameRun_of_eq (by rw [e])
  | oneShotRetire => have e := execOneShotRetire_frame h; exact sameRun_of_eq (by rw [e])
  | mportSend => have e := execMportSend_frame h; exact sameRun_of_eq (by rw [e])
  | memoryResponse tag status beats =>
      have e := execMemoryResponse_frame tag status beats h; exact sameRun_of_eq (by rw [e])
  | tick => have e := execTick_frame h; exact sameRun_of_eq (by rw [e])
  | responseLimitExpiry entry => have e := execResponseLimitExpiry_frame entry h; exact sameRun_of_eq (by rw [e])
  | stallLimitExpiry => have e := execStallLimitExpiry_frame h; exact sameRun_of_eq (by rw [e])
  | arbiterGrant => have e := execArbiterGrant_frame h; exact sameRun_of_eq (by rw [e])
  | linkFault period => have e := execLinkFault_frame period h; exact sameRun_of_eq (by rw [e])
  | resync => have e := execResync_frame h; exact sameRun_of_eq (by rw [e])
  | duplicate code seq => have e := execDuplicate_frame code seq h; exact sameRun_of_eq (by rw [e])
  | unknownCommand code seq => have e := execUnknownCommand_frame code seq h; exact sameRun_of_eq (by rw [e])
  | nop seq => have e := execNop_frame seq h; exact sameRun_of_eq (by rw [e])
  | getStatus seq => have e := execGetStatus_frame seq h; exact sameRun_of_eq (by rw [e])
  | clearUnit seq => exact hc.elim
  | writeEntry seq index image => have e := execWriteEntry_frame seq index image h; exact sameRun_of_eq (by rw [e])
  | readEntry seq index => have e := execReadEntry_frame seq index h; exact sameRun_of_eq (by rw [e])
  | enableEntry seq index => have e := execEnableEntry_frame seq index h; exact sameRun_of_eq (by rw [e])
  | disableEntry seq index => have e := execDisableEntry_frame seq index h; exact sameRun_of_eq (by rw [e])
  | clearEntryCounts seq index => have e := execClearEntryCounts_frame seq index h; exact sameRun_of_eq (by rw [e])
  | setMode seq mode => have e := execSetMode_frame seq mode h; exact sameRun_of_eq (by rw [e])
  | takeSlot seq slot => have e := execTakeSlot_frame seq slot h; exact sameRun_of_eq (by rw [e])
  | releaseSlot seq slot => have e := execReleaseSlot_frame seq slot h; exact sameRun_of_eq (by rw [e])
  | writeSlot seq slot offset length data =>
      have e := execWriteSlot_frame seq slot offset length data h; exact sameRun_of_eq (by rw [e])
  | readSlot seq slot => have e := execReadSlot_frame seq slot h; exact sameRun_of_eq (by rw [e])
  | ackSlot seq slot sequence => have e := execAckSlot_frame seq slot sequence h; exact sameRun_of_eq (by rw [e])
  | readHistory seq => have e := execReadHistory_frame seq h; exact sameRun_of_eq (by rw [e])
  | configQueue seq first count mode watermark => exact hc.elim
  | popQueue seq =>
    injection h with h; subst h
    exact linkExecute_sameRun _ _ _ _ (popQueue_sameRun s)
  | switchBank seq group bank => have e := execSwitchBank_frame seq group bank h; exact sameRun_of_eq (by rw [e])
  | sessionArm seq count => have e := execSessionArm_frame seq count h; exact sameRun_of_eq (by rw [e])
  | sessionRun seq count => have e := execSessionRun_frame seq count h; exact sameRun_of_eq (by rw [e])
  | sessionHalt seq => have e := execSessionHalt_frame seq h; exact sameRun_of_eq (by rw [e])
  | sessionClear seq =>
    injection h with h; subst h
    exact linkExecute_sameRun _ _ _ _ (sessionClear_sameRun s)
  | setLimits seq response stall =>
      have e := execSetLimits_frame seq response stall h; exact sameRun_of_eq (by rw [e])
  | setTimebase seq prescaler load value =>
      have e := execSetTimebase_frame seq prescaler load value h; exact sameRun_of_eq (by rw [e])
  | readCounters seq => have e := execReadCounters_frame seq h; exact sameRun_of_eq (by rw [e])
  | clearCounters seq set => have e := execClearCounters_frame seq set h; exact sameRun_of_eq (by rw [e])
  | setAlertEnable seq set => have e := execSetAlertEnable_frame seq set h; exact sameRun_of_eq (by rw [e])
  | ackAlert seq set => have e := execAckAlert_frame seq set h; exact sameRun_of_eq (by rw [e])

theorem inRun_of_sameRun {s t : State} (h : SameRun s t) (n : Nat) : t.queue.inRun n = s.queue.inRun n := by
  unfold Queue.inRun; rw [h.1, h.2]

theorem inRun_unconfigured (n : Nat) : Queue.unconfigured.inRun n = false := by simp [Queue.inRun, Queue.unconfigured]

/-- What every command but ENABLE_ENTRY can do to the match entries: each is OFF after, or was ON before with the
    same fields (R1). -/
def TableStep (s t : State) : Prop := ∀ j : Fin 32, (t.matchEntry j).state = .off ∨
    ((s.matchEntry j).state = .on ∧ (t.matchEntry j).image = (s.matchEntry j).image)

theorem tableStep_of_eq {s t : State} (h : t.table = s.table) : TableStep s t := fun j => by
  have : t.matchEntry j = s.matchEntry j := by simp [State.matchEntry, h]
  rw [this]; cases hx : (s.matchEntry j).state <;> simp

theorem matchEntry_setMatch_eq (s : State) (i j : Fin 32) (e : MatchEntry) : (s.setMatch i e).matchEntry j = if i = j
    then e else s.matchEntry j := by
  unfold State.matchEntry State.setMatch
  by_cases h : i = j
  · subst h; simp
  · have : i.val ≠ j.val := fun x => h (Fin.ext x)
    simp [h, this]

theorem TableStep.refl (s : State) : TableStep s s := tableStep_of_eq rfl

theorem tableStep_of_setMatch {s t : State} (i : Fin 32) (e : MatchEntry) (h : t.table = (s.setMatch i e).table)
    (he : e.state = .off ∨ (e.state = (s.matchEntry i).state ∧ e.image = (s.matchEntry i).image)) : TableStep s t :=
    fun j => by
  have : t.matchEntry j = (s.setMatch i e).matchEntry j := by simp only [State.matchEntry, h]
  rw [this, matchEntry_setMatch_eq]
  split
  · rename_i hij; subst hij
    rcases he with he | ⟨h1, h2⟩
    · exact .inl he
    · rw [h1, h2]; cases hx : (s.matchEntry i).state <;> simp
  · exact TableStep.refl s j

theorem linkExecute_tableStep (run : State → State × Answer) (code seq : Byte) (s : State)
    (h : TableStep s (run s).1) : TableStep s (linkExecute code seq run s) := by
  rcases linkExecute_cases code seq run s with e | e | e <;> rw [e]
  · exact tableStep_of_eq rfl
  · refine tableStep_of_eq ?_; unfold State.replay; split <;> rfl
  · exact fun n => h n

theorem withEntry_tableStep (index : Byte) (run : Fin 32 → State → State × Answer) (s : State)
    (h : ∀ n, TableStep s (run n s).1) : TableStep s (withEntry index run s).1 := by
  rcases withEntry_cases index run s with e | ⟨n, hn, e⟩ <;> rw [e]
  · exact tableStep_of_eq rfl
  · exact h n

theorem TableStep.of_table_eq {s t u : State} (h : u.table = t.table) (ht : TableStep s t) : TableStep s u := fun j
    => by
  have : u.matchEntry j = t.matchEntry j := by simp [State.matchEntry, h]
  rw [this]; exact ht j

theorem miss_tableStep (s : State) (i : Fin 32) : TableStep s (s.miss i) := tableStep_of_setMatch i
    { s.matchEntry i with misses := satInc (s.matchEntry i).misses } rfl (.inr ⟨rfl, rfl⟩)

theorem hit_tableStep (s : State) (i : Fin 32) : TableStep s (s.hit i) := tableStep_of_setMatch i
    { s.matchEntry i with hits := satInc (s.matchEntry i).hits } rfl (.inr ⟨rfl, rfl⟩)

theorem turnOff_tableStep (s : State) (i : Fin 32) : TableStep s (s.turnOff i) := tableStep_of_setMatch i
    { s.matchEntry i with state := .off } rfl (.inl rfl)

theorem TableStep.trans {s t u : State} (h : TableStep s t) (k : TableStep t u) : TableStep s u := fun j => by
  rcases k j with hk | ⟨hk, he⟩
  · exact .inl hk
  · rcases h j with hh | ⟨hh, hi⟩
    · rw [hh] at hk; cases hk
    · exact .inr ⟨hh, he.trans hi⟩

theorem retire_tableStep (s : State) (g : Governor) : TableStep s (s.retire g) := by
  unfold State.retire; split
  · exact TableStep.refl s
  · exact turnOff_tableStep s g.index

theorem expireStall_tableStep (s : State) (w : Work) (g : Governor) : TableStep s (s.expireStall w g) :=
  TableStep.of_table_eq (t := (s.answerLocally w { status := .overlayUnavailable, beats := [] } false).miss g.index)
    (by simp [State.expireStall]) ((tableStep_of_eq rfl).trans (miss_tableStep _ _))

theorem settleStall_tableStep (s : State) : TableStep s s.settleStall := by
  unfold State.settleStall; split
  · exact expireStall_tableStep s _ _
  all_goals exact TableStep.refl s

theorem settleTimers_tableStep (s : State) : TableStep s s.settleTimers :=
  (tableStep_of_eq (by rw [State.foldl_settleResponse_frame])).trans (settleStall_tableStep _)

theorem serveStalled_tableStep (s : State) (w : Work) (g : Governor) (n : SlotId) (timer : LimitTimer) :
    TableStep s (s.serveStalled w g n timer) := by
  unfold State.serveStalled; split
  · exact expireStall_tableStep s w g
  · exact tableStep_of_eq (by simp)

theorem discardWork_tableStep (s : State) : TableStep s s.discardWork := by
  unfold State.discardWork
  repeat' split
  all_goals first
    | exact tableStep_of_eq rfl
    | exact (retire_tableStep s _).trans (tableStep_of_eq rfl)

theorem endStallByMode_tableStep (s : State) : TableStep s s.endStallByMode := by
  unfold State.endStallByMode; repeat' split
  · exact TableStep.refl s
  · exact expireStall_tableStep s _ _
  · exact tableStep_of_eq (by simp)

theorem setMode_tableStep (mode : Byte) (s : State) : TableStep s (setMode mode s).1 := by
  unfold setMode modeBypass modeActive
  repeat' split
  all_goals first
    | exact tableStep_of_eq rfl
    | exact TableStep.trans (t := s.setMode _) (tableStep_of_eq rfl) (endStallByMode_tableStep _)

theorem releaseSlot_tableStep (n : SlotId) (s : State) : TableStep s (releaseSlot n s).1 := by
  unfold releaseSlot
  repeat' (first | split | dsimp only)
  all_goals first
    | exact tableStep_of_eq rfl
    | exact TableStep.trans (t := s.setSlot n _) (tableStep_of_eq rfl) (serveStalled_tableStep _ _ _ _ _)

theorem rederiveGroup_tableStep (s : State) (group : Fin 4) : TableStep s (s.rederiveGroup group) := by
  unfold State.rederiveGroup State.rederive; repeat' split
  · exact TableStep.refl s
  · exact serveStalled_tableStep s _ _ _ _
  · exact tableStep_of_eq rfl
  · exact TableStep.refl s

theorem switchBank_tableStep (group bank : Byte) (s : State) : TableStep s (switchBank group bank s).1 := by
  unfold switchBank setBank; repeat' split
  · exact TableStep.refl s
  · exact TableStep.trans (t := { s with banks := _ }) (tableStep_of_eq rfl) (rederiveGroup_tableStep _ _)
  all_goals exact TableStep.refl s

/-- The commands that turn no entry ON. -/
def TurnsNoneOn : Instr → Prop
  | .enableEntry .. => False
  | _ => True

/-- What such a command does to the match entries. -/
theorem exec_tableStep (c : Instr) (s t : State) (hc : TurnsNoneOn c) (h : exec c s = .next t) : TableStep s t := by
  cases c with
  | porst =>
    injection h with h; subst h
    intro j; left; show ((Vector.replicate 32 MatchEntry.porst)[j]).state = _; simp [MatchEntry.porst]
  | porstRelease low => have e := execPorstRelease_frame low h; exact tableStep_of_eq (by rw [e])
  | srst =>
    replace h := Host.Outcome.next.inj h; subst h
    exact ((settleTimers_tableStep s).trans
      (TableStep.trans (t := s.settleTimers.abandonLinked) (tableStep_of_eq (by simp)) (discardWork_tableStep _))).trans
      (tableStep_of_eq (by simp))
  | srstRelease => have e := execSrstRelease_frame h; exact tableStep_of_eq (by rw [e])
  | requestAccept request => have e := execRequestAccept_frame request h; exact tableStep_of_eq (by rw [e])
  | classify =>
    injection h with h; subst h
    repeat' split
    all_goals first | exact tableStep_of_eq rfl | exact (TableStep.of_table_eq (t := s.hit _) rfl (hit_tableStep s _))
  | startTrigger => have e := execStartTrigger_frame h; exact tableStep_of_eq (by rw [e])
  | watchAction => have e := execWatchAction_frame h; exact tableStep_of_eq (by rw [e])
  | captureSlotAction =>
    injection h with h; subst h
    split
    · dsimp only
      split
      · split
        · unfold State.captureToSlot; dsimp only
          split
          · exact tableStep_of_eq (by simp)
          · split
            · exact TableStep.of_table_eq (t := s.miss _) (by simp; rfl) (miss_tableStep s _)
            · exact tableStep_of_eq (by simp)
        · exact tableStep_of_eq (by simp)
      · exact tableStep_of_eq rfl
    · exact tableStep_of_eq rfl
  | captureQueueAction => have e := execCaptureQueueAction_frame h; exact tableStep_of_eq (by rw [e])
  | overlayAction =>
    injection h with h; subst h
    split
    · dsimp only
      split
      · split
        · unfold State.overlay
          split
          · exact tableStep_of_eq (by simp)
          · split
            · exact tableStep_of_eq (by simp [State.serveAndGoOn])
            · unfold State.fallBack; split
              · exact tableStep_of_eq rfl
              · exact TableStep.of_table_eq (t := s.miss _) (by simp; rfl) (miss_tableStep s _)
        · exact tableStep_of_eq (by simp)
      · exact tableStep_of_eq rfl
    · exact tableStep_of_eq rfl
  | historyAppend => have e := execHistoryAppend_frame h; exact tableStep_of_eq (by rw [e])
  | recordNotice => have e := execRecordNotice_frame h; exact tableStep_of_eq (by rw [e])
  | stopTrigger => have e := execStopTrigger_frame h; exact tableStep_of_eq (by rw [e])
  | oneShotRetire =>
    injection h with h; subst h
    split
    · exact TableStep.of_table_eq (t := s.retire _) rfl (retire_tableStep s _)
    · exact tableStep_of_eq rfl
  | mportSend => have e := execMportSend_frame h; exact tableStep_of_eq (by rw [e])
  | memoryResponse tag status beats =>
      have e := execMemoryResponse_frame tag status beats h; exact tableStep_of_eq (by rw [e])
  | tick =>
    replace h := Host.Outcome.next.inj h; subst h
    repeat' split
    · exact TableStep.refl s
    · exact tableStep_of_eq rfl
    · exact (settleTimers_tableStep s).trans (tableStep_of_eq (by simp))
  | responseLimitExpiry entry => have e := execResponseLimitExpiry_frame entry h; exact tableStep_of_eq (by rw [e])
  | stallLimitExpiry =>
    replace h := Host.Outcome.next.inj h; subst h
    exact settleStall_tableStep s
  | arbiterGrant => have e := execArbiterGrant_frame h; exact tableStep_of_eq (by rw [e])
  | linkFault period => have e := execLinkFault_frame period h; exact tableStep_of_eq (by rw [e])
  | resync => have e := execResync_frame h; exact tableStep_of_eq (by rw [e])
  | duplicate code seq => have e := execDuplicate_frame code seq h; exact tableStep_of_eq (by rw [e])
  | unknownCommand code seq => have e := execUnknownCommand_frame code seq h; exact tableStep_of_eq (by rw [e])
  | nop seq => have e := execNop_frame seq h; exact tableStep_of_eq (by rw [e])
  | getStatus seq => have e := execGetStatus_frame seq h; exact tableStep_of_eq (by rw [e])
  | clearUnit seq =>
    injection h with h; subst h
    refine linkExecute_tableStep _ _ _ _ ?_
    unfold clearUnit; split
    · intro j; left; show ((Vector.replicate 32 MatchEntry.porst)[j]).state = _; simp [MatchEntry.porst]
    · exact tableStep_of_eq rfl
  | writeEntry seq index image =>
    injection h with h; subst h
    refine linkExecute_tableStep _ _ _ _ (withEntry_tableStep _ _ _ fun i => ?_)
    unfold writeEntry; split
    · exact tableStep_of_setMatch i _ rfl (.inl rfl)
    · exact tableStep_of_eq rfl
  | readEntry seq index => have e := execReadEntry_frame seq index h; exact tableStep_of_eq (by rw [e])
  | enableEntry seq index => exact hc.elim
  | disableEntry seq index =>
    injection h with h; subst h
    refine linkExecute_tableStep _ _ _ _ (withEntry_tableStep _ _ _ fun i => ?_)
    unfold disableEntry; repeat' split
    · exact tableStep_of_eq rfl
    · exact tableStep_of_eq rfl
    · exact turnOff_tableStep s i
  | clearEntryCounts seq index =>
    injection h with h; subst h
    refine linkExecute_tableStep _ _ _ _ (withEntry_tableStep _ _ _ fun i => ?_)
    unfold clearEntryCounts
    exact tableStep_of_setMatch i { s.matchEntry i with hits := 0, misses := 0 } rfl (.inr ⟨rfl, rfl⟩)
  | setMode seq mode =>
    replace h := Host.Outcome.next.inj h; subst h
    exact linkExecute_tableStep _ _ _ _ (setMode_tableStep mode s)
  | takeSlot seq slot => have e := execTakeSlot_frame seq slot h; exact tableStep_of_eq (by rw [e])
  | releaseSlot seq slot =>
    replace h := Host.Outcome.next.inj h; subst h
    refine linkExecute_tableStep _ _ _ _ ?_
    rcases withSlot_cases slot releaseSlot s with e | ⟨n, _, e⟩ <;> rw [e]
    · exact TableStep.refl s
    · exact releaseSlot_tableStep n s
  | writeSlot seq slot offset length data =>
      have e := execWriteSlot_frame seq slot offset length data h; exact tableStep_of_eq (by rw [e])
  | readSlot seq slot => have e := execReadSlot_frame seq slot h; exact tableStep_of_eq (by rw [e])
  | ackSlot seq slot sequence => have e := execAckSlot_frame seq slot sequence h; exact tableStep_of_eq (by rw [e])
  | readHistory seq => have e := execReadHistory_frame seq h; exact tableStep_of_eq (by rw [e])
  | configQueue seq first count mode watermark =>
      have e := execConfigQueue_frame seq first count mode watermark h; exact tableStep_of_eq (by rw [e])
  | popQueue seq => have e := execPopQueue_frame seq h; exact tableStep_of_eq (by rw [e])
  | switchBank seq group bank =>
    replace h := Host.Outcome.next.inj h; subst h
    exact linkExecute_tableStep _ _ _ _ (switchBank_tableStep group bank s)
  | sessionArm seq count => have e := execSessionArm_frame seq count h; exact tableStep_of_eq (by rw [e])
  | sessionRun seq count => have e := execSessionRun_frame seq count h; exact tableStep_of_eq (by rw [e])
  | sessionHalt seq => have e := execSessionHalt_frame seq h; exact tableStep_of_eq (by rw [e])
  | sessionClear seq => have e := execSessionClear_frame seq h; exact tableStep_of_eq (by rw [e])
  | setLimits seq response stall =>
      have e := execSetLimits_frame seq response stall h; exact tableStep_of_eq (by rw [e])
  | setTimebase seq prescaler load value =>
      have e := execSetTimebase_frame seq prescaler load value h; exact tableStep_of_eq (by rw [e])
  | readCounters seq => have e := execReadCounters_frame seq h; exact tableStep_of_eq (by rw [e])
  | clearCounters seq set => have e := execClearCounters_frame seq set h; exact tableStep_of_eq (by rw [e])
  | setAlertEnable seq set => have e := execSetAlertEnable_frame seq set h; exact tableStep_of_eq (by rw [e])
  | ackAlert seq set => have e := execAckAlert_frame seq set h; exact tableStep_of_eq (by rw [e])

/-- Such a command adds no name of a slot. -/
theorem names_of_tableStep {s t : State} (h : TableStep s t) (j : Fin 32) (n : Nat)
    (hn : (t.matchEntry j).names n = true) : (s.matchEntry j).names n = true := by
  unfold MatchEntry.names at *
  simp only [Bool.and_eq_true, beq_iff_eq] at *
  rcases h j with h | ⟨h1, h2⟩
  · rw [h] at hn; cases hn.1
  · rw [h2] at hn; exact ⟨h1, hn.2⟩

/-- An entry that passes the checks still does where its fields are the same and no ground of refusal is new. -/
theorem enableFailure_eq_none_of {s t : State} (i : Fin 32) (hi : (t.matchEntry i).image = (s.matchEntry i).image)
   (hq : actionOf (s.matchEntry i).image.action = some .captureQueue → t.queue.count = 0 → s.queue.count = 0)
       (hc : t.slotConflict i (s.matchEntry i).image = true → s.slotConflict i (s.matchEntry i).image = true)
       (h : s.enableFailure i = none) : t.enableFailure i = none := by
  unfold State.enableFailure at *
  simp only [hi]
  simp only at h
  split at h
  · cases h
  split at h
  · cases h
  split at h
  · cases h
  split at h
  · cases h
  split at h
  · cases h
  split at h
  · cases h
  rename_i a1 a2 a3 a4 a5 a6
  rw [if_neg a1, if_neg a2, if_neg a3, if_neg a4, if_neg (fun hx => a5 ⟨hx.1, hq hx.1 hx.2⟩), if_neg
      (fun hx => a6 (hc hx))]

/-- Such a command keeps every ON entry checked, if it keeps the place of the queue run. -/
theorem entriesChecked_of_tableStep {s t : State} (h : TableStep s t) (hq : SameRun s t) (hs : s.EntriesChecked)
    : t.EntriesChecked := by
  intro i hi
  rcases h i with h' | ⟨h1, h2⟩
  · rw [h'] at hi; cases hi
  · refine enableFailure_eq_none_of i h2 (by rw [hq.2]; exact fun _ h => h) ?_ (hs i h1)
    unfold State.slotConflict
    simp only [Bool.or_eq_true, List.any_eq_true, Bool.and_eq_true]
    rintro ((⟨n, hn, j, hj, hne, hnm⟩ | ⟨n, hn, hr⟩) | h3)
    · exact .inl (.inl ⟨n, hn, j, hj, hne, names_of_tableStep h j n hnm⟩)
    · rw [inRun_of_sameRun hq] at hr; exact .inl (.inr ⟨n, hn, hr⟩)
    · exact .inr h3

theorem slotConflict_of_enableFailure {s : State} {i : Fin 32} (h : s.enableFailure i = none) : s.slotConflict i
    (s.matchEntry i).image = false := by
  unfold State.enableFailure at h
  simp only at h
  split at h
  · cases h
  split at h
  · cases h
  split at h
  · cases h
  split at h
  · cases h
  split at h
  · cases h
  split at h
  · cases h
  · rename_i hh; simpa using hh

theorem names_iff {e : MatchEntry} {n : Nat} : e.names n = true ↔ e.state = .on ∧ n ∈ namedSlots e.image := by
  unfold MatchEntry.names; simp

/-- ENABLE_ENTRY keeps every ON entry checked (R11 to R16). -/
theorem enableEntry_keeps_entriesChecked (i : Fin 32) (s : State) (hs : s.EntriesChecked)
    : (enableEntry i s).1.EntriesChecked := by
  unfold enableEntry
  split
  · exact hs
  · split
    · exact hs
    · rename_i hoff hf
      show (s.setMatch i { s.matchEntry i with state := .on }).EntriesChecked
      intro j hj
      dsimp only at *
      rw [matchEntry_setMatch_eq] at hj
      by_cases hij : i = j
      · subst hij
        refine enableFailure_eq_none_of (s := s) i (by rw [matchEntry_setMatch_eq]; simp) (fun _ h => h) ?_ hf
        unfold State.slotConflict
        simp only [Bool.or_eq_true, List.any_eq_true, Bool.and_eq_true]
        rintro ((⟨n, hn, j, hj', hne, hnm⟩ | ⟨n, hn, hr⟩) | h3)
        · refine .inl (.inl ⟨n, hn, j, hj', hne, ?_⟩)
          rw [matchEntry_setMatch_eq, if_neg] at hnm
          · exact hnm
          · intro e; subst e; simp at hne
        · exact .inl (.inr ⟨n, hn, hr⟩)
        · exact .inr h3
      · rw [if_neg hij] at hj
        refine enableFailure_eq_none_of (s := s) j (by rw [matchEntry_setMatch_eq, if_neg hij]) (fun _ h => h) ?_
            (hs j hj)
        have hc := slotConflict_of_enableFailure hf
        unfold State.slotConflict at *
        simp only [Bool.or_eq_true, List.any_eq_true, Bool.and_eq_true]
        rintro ((⟨n, hn, k, hk, hne, hnm⟩ | ⟨n, hn, hr⟩) | h3)
        · rw [matchEntry_setMatch_eq] at hnm
          by_cases hik : i = k
          · subst hik
            rw [if_pos rfl] at hnm
            exfalso
            simp only [Bool.or_eq_false_iff] at hc
            have := hc.1.1
            rw [List.any_eq_false] at this
            have hni := (names_iff.mp hnm).2
            have := this n hni
            apply this
            rw [List.any_eq_true]
            refine ⟨j, List.mem_finRange j, ?_⟩
            simp only [Bool.and_eq_true, bne_iff_ne]
            exact ⟨fun e => hij e.symm, names_iff.mpr ⟨hj, hn⟩⟩
          · rw [if_neg hik] at hnm
            exact .inl (.inl ⟨n, hn, k, hk, hne, hnm⟩)
        · exact .inl (.inr ⟨n, hn, hr⟩)
        · exact .inr h3

/-- A new run that no ON entry names keeps every ON entry checked (R82, R84). -/
theorem reconfigure_keeps_entriesChecked (s : State) (q : Queue) (hs : s.EntriesChecked)
    (h1 : ∀ i : Fin 32, (s.matchEntry i).state = .on → actionOf (s.matchEntry i).image.action = some .captureQueue →
    q.count ≠ 0)
  (h2 : ∀ (i : Fin 32) n, (s.matchEntry i).names n = true → q.inRun n = false) : (s.reconfigure q).EntriesChecked :=
      by
  unfold State.reconfigure
  generalize emptyRun q (emptyRun s.queue s.slots) = slots
  intro i hi
  have hi : (s.matchEntry i).state = .on := hi
  refine enableFailure_eq_none_of (s := s) i rfl (fun ha hz => absurd hz (h1 i hi ha)) ?_ (hs i hi)
  unfold State.slotConflict
  simp only [Bool.or_eq_true, List.any_eq_true, Bool.and_eq_true]
  rintro ((⟨n, hn, j, hj, hne, hnm⟩ | ⟨n, hn, hr⟩) | h3)
  · exact .inl (.inl ⟨n, hn, j, hj, hne, hnm⟩)
  · have := h2 i n (names_iff.mpr ⟨hi, hn⟩)
    have hr : q.inRun n = true := hr
    rw [this] at hr; cases hr
  · exact .inr h3

/-- CONFIG_QUEUE keeps every ON entry checked (R82 to R84). -/
theorem configQueue_keeps_entriesChecked (a b c d : Byte) (s : State) (hs : s.EntriesChecked)
    : (configQueue a b c d s).1.EntriesChecked := by
  unfold configQueue
  split
  · split
    · unfold unconfigureQueue; split
      · exact hs
      · rename_i hh
        refine reconfigure_keeps_entriesChecked s _ hs ?_ (fun i n _ => inRun_unconfigured n)
        intro i hi ha _
        apply hh
        rw [any_table]
        exact ⟨i, by simp [MatchEntry.acts, hi, ha]⟩
    · unfold configureQueue
      split
      · exact hs
      · rename_i hf
        unfold State.queueFailure queueFieldsInRange at hf
        split at hf
        · cases hf
        · rename_i g1
          split at hf
          · cases hf
          · split at hf
            · cases hf
            · rename_i g2
              simp at g1
              refine reconfigure_keeps_entriesChecked s _ hs ?_ ?_
              · intro i _ _ h0; have : b.toNat = 0 := h0; omega
              · intro i n hn
                cases hx : (queueOf a b c d).inRun n with
                | false => rfl
                | true =>
                  exfalso; apply g2
                  rw [any_runSlots]
                  simp only [Queue.inRun, queueOf, Bool.and_eq_true] at hx
                  refine ⟨n, of_decide_eq_true hx.1, of_decide_eq_true hx.2, ?_⟩
                  unfold State.namedByOn; rw [any_table]; exact ⟨i, hn⟩
  · exact hs

end Sys2Proof.Machine
end

