-- ==== Sys2Proof/Laws/Slots.lean ====
section
/-! SUPPORT. What a command can do to a slot. -/

namespace Sys2Proof.Machine

/-- What every command but PORST, CLEAR_UNIT, TAKE_SLOT, RELEASE_SLOT and WRITE_SLOT can do to a slot, `o` before and
    `n` after: the owner stays, the data area of a TOOL-owned slot stays, and the place of the record in its line
    stays or is that of the request under classification (R40, R47). -/
structure SlotStep (s : State) (o n : Slot) : Prop where
  owner : n.owner = o.owner
  data : o.owner = .tool → n.data = o.data
  shape : (n.beats = o.beats ∧ n.firstBeat = o.firstBeat ∧ n.lineAddress = o.lineAddress) ∨
      (∃ w, s.work = some w ∧ n.beats = w.request.beats ∧ n.firstBeat = firstBeat w.request ∧ n.lineAddress =
      lineAddress w.request)

theorem SlotStep.refl (s : State) (o : Slot) : SlotStep s o o := ⟨rfl, fun _ => rfl, .inl ⟨rfl, rfl, rfl⟩⟩

/-- Every slot changes as such a command can change it. -/
def SlotsStep (s t : State) : Prop := ∀ n : SlotId, SlotStep s (s.slot n) (t.slot n)

/-- A command that leaves the slots alone changes them so. -/
theorem slotsStep_of_eq {s t : State} (h : t.slots = s.slots) : SlotsStep s t := fun n => by
  have : t.slot n = s.slot n := by simp [State.slot, h]
  rw [this]; exact SlotStep.refl _ _

theorem slot_setSlot_eq (s : State) (n m : SlotId) (x : Slot) : (s.setSlot n x).slot m = if n = m then x else s.slot
    m := by
  by_cases h : n = m
  · subst h; simp
  · simp [State.slot_setSlot, h]

theorem slotsStep_of_setSlot {s t : State} (n : SlotId) (x : Slot) (h : t.slots = (s.setSlot n x).slots)
    (hx : SlotStep s (s.slot n) x) : SlotsStep s t := fun m => by
  have : t.slot m = (s.setSlot n x).slot m := by simp only [State.slot, h]
  rw [this, slot_setSlot_eq]
  split
  · rename_i e; subst e; exact hx
  · exact SlotStep.refl _ _

theorem linkExecute_slotsStep (run : State → State × Answer) (code seq : Byte) (s : State)
    (h : SlotsStep s (run s).1) : SlotsStep s (linkExecute code seq run s) := by
  rcases linkExecute_cases code seq run s with e | e | e <;> rw [e]
  · exact slotsStep_of_eq rfl
  · refine slotsStep_of_eq ?_; unfold State.replay; split <;> rfl
  · exact fun n => h n

theorem withSlot_slotsStep (slot : Byte) (run : SlotId → State → State × Answer) (s : State)
    (h : ∀ n, slot.toNat = n.val → SlotsStep s (run n s).1) : SlotsStep s (withSlot slot run s).1 := by
  rcases withSlot_cases slot run s with e | ⟨n, hn, e⟩ <;> rw [e]
  · exact slotsStep_of_eq rfl
  · exact h n hn

/-- What emptying a run does to one slot (R43). -/
theorem getElem_emptyRun (q : Queue) (sl : Vector Slot 64) (n : SlotId) : (emptyRun q sl)[n] =
    (if q.inRun n.val then { sl[n] with record := .empty } else sl[n]) := by
  simp [emptyRun]

theorem slotStep_empty (s : State) (o : Slot) : SlotStep s o { o with record := .empty } :=
    ⟨rfl, fun _ => rfl, .inl ⟨rfl, rfl, rfl⟩⟩

theorem SlotStep.trans {s : State} {a b c : Slot} (h1 : SlotStep s a b) (h2 : SlotStep s b c) : SlotStep s a c := by
  refine ⟨h2.owner.trans h1.owner, fun h => (h2.data (h1.owner.trans h)).trans (h1.data h), ?_⟩
  rcases h2.shape with ⟨p, q, r⟩ | h
  · rcases h1.shape with ⟨p', q', r'⟩ | ⟨w, hw, p', q', r'⟩
    · exact .inl ⟨p.trans p', q.trans q', r.trans r'⟩
    · exact .inr ⟨w, hw, p.trans p', q.trans q', r.trans r'⟩
  · exact .inr h

theorem emptyRun_slotStep (s : State) (q : Queue) (sl : Vector Slot 64) (n : SlotId) : SlotStep s sl[n]
    (emptyRun q sl)[n] := by
  rw [getElem_emptyRun]; split
  · exact slotStep_empty _ _
  · exact SlotStep.refl _ _

theorem sessionClear_slotsStep (s : State) : SlotsStep s (sessionClear s).1 := by
  unfold sessionClear
  split
  · exact fun n => emptyRun_slotStep s _ _ n
  · exact fun n => emptyRun_slotStep s _ _ n
  all_goals exact slotsStep_of_eq rfl

theorem reconfigure_slotsStep (s : State) (q : Queue) : SlotsStep s (s.reconfigure q) := fun n => SlotStep.trans
    (emptyRun_slotStep s s.queue s.slots n) (emptyRun_slotStep s q _ n)

theorem configQueue_slotsStep (a b c d : Byte) (s : State) : SlotsStep s (configQueue a b c d s).1 := by
  unfold configQueue
  split
  · split
    · unfold unconfigureQueue
      split
      · exact slotsStep_of_eq rfl
      · exact reconfigure_slotsStep s Queue.unconfigured
    · unfold configureQueue
      split
      · exact slotsStep_of_eq rfl
      · exact reconfigure_slotsStep s (queueOf a b c d)
  · exact slotsStep_of_eq rfl

theorem popQueue_slotsStep (s : State) : SlotsStep s (popQueue s).1 := by
  unfold popQueue
  repeat' split
  · exact slotsStep_of_eq rfl
  · exact slotsStep_of_eq rfl
  · exact slotsStep_of_setSlot (s.queue.slotAt s.queue.oldest) _ rfl (slotStep_empty _ _)

theorem ackSlot_slotsStep (q : HalfWord) (n : SlotId) (s : State) : SlotsStep s (ackSlot q n s).1 := by
  unfold ackSlot
  split
  · exact slotsStep_of_setSlot n { s.slot n with new := false, overrun := false } rfl
        ⟨rfl, fun _ => rfl, .inl ⟨rfl, rfl, rfl⟩⟩
  · exact slotsStep_of_eq rfl

theorem slotStep_data {s : State} {o : Slot} (h : o.owner = .unit) (d : Line) : SlotStep s o { o with data := d } :=
    ⟨rfl, fun h' => by (rw [h] at h'; cases h'), .inl ⟨rfl, rfl, rfl⟩⟩

/-- Serving from a UNIT-owned slot (R98, R99). -/
theorem serve_slotsStep {s : State} (w : Work) (n : SlotId) (h : (s.slot n).owner = .unit) : SlotsStep s
    (s.serve w n) := by
  unfold State.serve
  split
  · exact slotsStep_of_eq (by simp)
  · exact slotsStep_of_setSlot n { s.slot n with data := mergeLine (s.slot n).data (writeByte w.request) } (by simp)
        (slotStep_data h _)

theorem SlotsStep.of_slots_eq {s t u : State} (h : u.slots = t.slots) (hn : SlotsStep s t) : SlotsStep s u := fun n
    => by
  have : u.slot n = t.slot n := by simp [State.slot, h]
  rw [this]; exact hn n

theorem serveAndGoOn_slotsStep {s : State} (w : Work) (g : Governor) (n : SlotId) (h : (s.slot n).owner = .unit)
    : SlotsStep s (s.serveAndGoOn w g n) := SlotsStep.of_slots_eq (t := s.serve w n) (by simp [State.serveAndGoOn])
    (serve_slotsStep w n h)

theorem serveStalled_slotsStep {s : State} (w : Work) (g : Governor) (n : SlotId) (timer : LimitTimer)
    (h : (s.slot n).owner = .unit) : SlotsStep s (s.serveStalled w g n timer) := by
  unfold State.serveStalled
  split
  · exact slotsStep_of_eq (by simp)
  · exact SlotsStep.of_slots_eq (t := s.serve w n) (by simp) (serve_slotsStep w n h)

/-- Making the record of the request under classification in a UNIT-owned slot (R47). -/
theorem createRecord_slotsStep {s : State} {w : Work} (hw : s.work = some w) (n : SlotId) (c : Bool)
    (h : (s.slot n).owner = .unit) : SlotsStep s (s.createRecord n w.request c) := by
  have : (s.createRecord n w.request c).slots = (s.setSlot n (newRecord s w.request c (s.slot n))).slots := by
    unfold State.createRecord; dsimp only; split <;> rfl
  exact slotsStep_of_setSlot n _ this ⟨rfl, fun h' => by (rw [h] at h'; cases h'), .inr ⟨w, hw, rfl, rfl, rfl⟩⟩

theorem slotStep_outcome (s : State) (o : Slot) (x : RecordOutcome) : SlotStep s o { o with outcome := x } :=
    ⟨rfl, fun _ => rfl, .inl ⟨rfl, rfl, rfl⟩⟩

/-- A closing access (R49). -/
theorem closeRecord_slotsStep (s : State) (l : CaptureLink) (ch : Slot → Slot)
    (hc : ∀ o : Slot, o.owner = .unit → SlotStep s o (ch o)) : SlotsStep s (s.closeRecord l ch) := by
  unfold State.closeRecord
  split
  · rename_i h
    refine slotsStep_of_setSlot l.slot (ch (s.slot l.slot)) rfl (hc _ ?_)
    simp [Slot.closable] at h; exact h.1.1.1
  · exact slotsStep_of_eq rfl

theorem closeLink_slotsStep (s : State) (l : Option CaptureLink) (ch : Slot → Slot)
    (hc : ∀ o : Slot, o.owner = .unit → SlotStep s o (ch o)) : SlotsStep s (s.closeLink l ch) := by
  unfold State.closeLink
  split
  · exact slotsStep_of_eq rfl
  · exact closeRecord_slotsStep _ _ _ hc

theorem closeByResponse_slotStep (s : State) (k : Kind) (st : MemStatus) (b : List Beat) (o : Slot)
    (h : o.owner = .unit) : SlotStep s o (closeByResponse k st b o) := by
  unfold closeByResponse
  split
  · exact slotStep_outcome _ _ _
  · exact slotStep_outcome _ _ _
  · exact ⟨rfl, fun h' => by (rw [h] at h'; cases h'), .inl ⟨rfl, rfl, rfl⟩⟩

/-- Changes made while the same request is under classification follow each other. -/
theorem SlotsStep.trans {s t u : State} (hw : t.work = s.work) (h : SlotsStep s t) (k : SlotsStep t u) : SlotsStep s u :=
  fun n => (h n).trans ⟨(k n).owner, (k n).data, hw ▸ (k n).shape⟩

theorem settleResponse_slotsStep (s : State) (t : Tag) : SlotsStep s (s.settleResponse t) := by
  unfold State.settleResponse
  split
  · exact SlotsStep.of_slots_eq (t := s.closeLink (s.track t).link fun sl => { sl with outcome := .memFault })
        (by simp [State.expireResponse]) (closeLink_slotsStep s (s.track t).link _
        (fun o _ => slotStep_outcome s o _))
  · exact slotsStep_of_eq rfl

theorem foldl_settleResponse_slotsStep (tags : List Tag) (s : State) : SlotsStep s (tags.foldl State.settleResponse s) := by
  induction tags generalizing s with
  | nil => exact slotsStep_of_eq rfl
  | cons t rest ih => exact SlotsStep.trans (by simp) (settleResponse_slotsStep s t) (ih _)

theorem settleTimers_slotsStep (s : State) : SlotsStep s s.settleTimers :=
  SlotsStep.of_slots_eq (by simp [State.settleTimers]) (foldl_settleResponse_slotsStep (List.finRange 16) s)

theorem takeResponse_slotsStep (tag : Tag) (status : MemStatus) (beats : List Beat) (s : State) :
    SlotsStep s (s.takeResponse tag status beats) := by
  unfold State.takeResponse
  repeat' split
  all_goals first | exact slotsStep_of_eq rfl | skip
  refine SlotsStep.of_slots_eq (t := s.closeLink (s.track tag).link (closeByResponse (s.track tag).kind status
      (takenBeats (s.track tag).beats beats))) ?_ (closeLink_slotsStep s (s.track tag).link _
      (closeByResponse_slotStep s _ _ _))
  unfold State.completeByResponse State.noticeFault
  dsimp only
  split <;> simp

theorem memoryResponse_slotsStep (tag : Tag) (status : MemStatus) (beats : List Beat) (s t : State)
    (h : execMemoryResponse tag status beats s = .next t) : SlotsStep s t := by
  replace h := Host.Outcome.next.inj h; subst h
  split
  · exact slotsStep_of_eq rfl
  · exact SlotsStep.trans (by simp) (settleResponse_slotsStep s tag) (takeResponse_slotsStep tag status beats _)

theorem responseLimitExpiry_slotsStep (tag : Tag) (s t : State) (h : execResponseLimitExpiry tag s = .next t)
    : SlotsStep s t := by
  replace h := Host.Outcome.next.inj h; subst h
  exact settleResponse_slotsStep s tag

theorem tick_slotsStep (s t : State) (h : execTick s = .next t) : SlotsStep s t := by
  replace h := Host.Outcome.next.inj h; subst h
  repeat' split
  · exact slotsStep_of_eq rfl
  · exact slotsStep_of_eq rfl
  · exact SlotsStep.of_slots_eq (by simp) (settleTimers_slotsStep s)

theorem abandon_slotsStep (s0 s : State) (l : CaptureLink) (h : SlotsStep s0 s) : SlotsStep s0 (s.abandon l) := by
  unfold State.abandon
  split
  · intro m
    rw [slot_setSlot_eq]; split
    · rename_i e; subst e; exact SlotStep.trans (h _) (slotStep_outcome _ _ _)
    · exact h m
  · exact h

theorem abandonAll_slotsStep (s0 : State) (ls : List CaptureLink) (s : State) (h : SlotsStep s0 s) : SlotsStep s0
    (ls.foldl State.abandon s) := by
  induction ls generalizing s with
  | nil => exact h
  | cons l ls ih => exact ih _ (abandon_slotsStep _ _ _ h)

theorem srst_slotsStep (s t : State) (h : execSrst s = .next t) : SlotsStep s t := by
  replace h := Host.Outcome.next.inj h; subst h
  exact SlotsStep.of_slots_eq (t := s.settleTimers.abandonLinked) (by simp)
    (abandonAll_slotsStep s _ s.settleTimers (settleTimers_slotsStep s))

theorem captureSlotAction_slotsStep (s t : State) (h : execCaptureSlotAction s = .next t) : SlotsStep s t := by
  unfold execCaptureSlotAction at h; injection h with h; subst h
  split
  · rename_i r tt g hw
    dsimp only
    split
    · split
      · unfold State.captureToSlot
        split
        · exact slotsStep_of_eq (by simp)
        · dsimp only
          split
          · exact slotsStep_of_eq (by simp)
          · rename_i ho
            refine SlotsStep.of_slots_eq ?_
                (createRecord_slotsStep (w := { request := r, entry := tt, stage := .action g }) hw
                (captureSlotOf g.image) true ho)
            simp
      · exact slotsStep_of_eq (by simp)
    · exact slotsStep_of_eq rfl
  · exact slotsStep_of_eq rfl

theorem captureQueueAction_slotsStep (s t : State) (h : execCaptureQueueAction s = .next t) : SlotsStep s t := by
  unfold execCaptureQueueAction at h; injection h with h; subst h
  split
  · rename_i r tt g hw
    dsimp only
    split
    · split
      · unfold State.captureToQueue
        split
        · exact slotsStep_of_eq (by simp)
        · split
          · rename_i ho
            unfold State.offerToQueue
            unfold State.queueSlotOwner at ho
            split
            · rename_i hlt
              rw [if_pos hlt] at ho
              refine SlotsStep.of_slots_eq ?_
                  (createRecord_slotsStep (w := { request := r, entry := tt, stage := .action g }) hw _ false ho)
              unfold State.enqueue State.linkQueueRecord
              dsimp only
              simp only [State.placeLink]
              split <;> rfl
            · rename_i hlt
              rw [if_neg hlt] at ho
              split
              · exact slotsStep_of_eq (by simp [State.dropCapture])
              · refine SlotsStep.of_slots_eq ?_
                    (createRecord_slotsStep (w := { request := r, entry := tt, stage := .action g }) hw _ false ho)
                unfold State.replaceOldest State.linkQueueRecord
                simp [State.placeLink]
          · exact slotsStep_of_eq (by simp)
      · exact slotsStep_of_eq (by simp)
    · exact slotsStep_of_eq rfl
  · exact slotsStep_of_eq rfl

theorem overlayAction_slotsStep (s t : State) (h : execOverlayAction s = .next t) : SlotsStep s t := by
  unfold execOverlayAction at h; injection h with h; subst h
  split
  · dsimp only
    split
    · split
      · unfold State.overlay
        split
        · exact slotsStep_of_eq (by simp)
        · split
          · rename_i ho
            exact serveAndGoOn_slotsStep _ _ _ ho
          · unfold State.fallBack; split
            · exact slotsStep_of_eq rfl
            · exact slotsStep_of_eq (by simp)
      · exact slotsStep_of_eq (by simp)
    · exact slotsStep_of_eq rfl
  · exact slotsStep_of_eq rfl

theorem rederiveGroup_slotsStep (s : State) (group : Fin 4) : SlotsStep s (s.rederiveGroup group) := by
  unfold State.rederiveGroup State.rederive
  repeat' split
  · exact slotsStep_of_eq rfl
  · rename_i ho; exact serveStalled_slotsStep _ _ _ _ ho
  · exact slotsStep_of_eq rfl
  · exact slotsStep_of_eq rfl

theorem switchBank_slotsStep (group bank : Byte) (s : State) : SlotsStep s (switchBank group bank s).1 := by
  unfold switchBank setBank
  repeat' split
  · exact slotsStep_of_eq rfl
  · refine SlotsStep.trans ?_ ?_ (rederiveGroup_slotsStep _ _)
    · rfl
    · exact slotsStep_of_eq rfl
  all_goals exact slotsStep_of_eq rfl

/-! release / write / take -/
/-- What RELEASE_SLOT does to each slot (R53, R54). -/
theorem releaseSlot_slot (n : SlotId) (s : State) (m : SlotId) :
    (((releaseSlot n s).1.slot m).owner = if m = n then .unit else (s.slot m).owner)
    ∧ (m ≠ n → ((releaseSlot n s).1.slot m) = s.slot m)
    ∧ (((releaseSlot n s).1.slot m).beats = (s.slot m).beats ∧ ((releaseSlot n s).1.slot m).firstBeat =
        (s.slot m).firstBeat ∧ ((releaseSlot n s).1.slot m).lineAddress = (s.slot m).lineAddress) := by
  unfold releaseSlot
  split
  · rename_i ho
    refine ⟨?_, fun _ => rfl, rfl, rfl, rfl⟩
    split
    · rename_i e; subst e; exact ho
    · rfl
  · have hset : ∀ x : Slot, x = { s.slot n with owner := Owner.unit } → ∀ m, (s.setSlot n x).slot m = if n = m then x
        else s.slot m := fun x _ m => slot_setSlot_eq s n m x
    have base : ∀ m, (s.setSlot n { s.slot n with owner := Owner.unit }).slot m = if n = m then
        { s.slot n with owner := Owner.unit } else s.slot m := fun m => slot_setSlot_eq s n m _
    dsimp only
    split
    · dsimp only; rw [base]
      by_cases e : m = n
      · subst e; simp
      · have : ¬ n = m := fun h => e h.symm
        simp [e, this]
    · split
      · rename_i w g slot tm hst he
        unfold State.serveStalled
        dsimp only
        split
        · rw [State.expireStall_slot, base]
          by_cases e : m = n
          · subst e; simp
          · have : ¬ n = m := fun h => e h.symm
            simp [e, this]
        have hs : (((s.setSlot n { s.slot n with owner := Owner.unit }).serve w n).afterAction w g).slots =
            ((s.setSlot n { s.slot n with owner := Owner.unit }).serve w n).slots := by simp
        have hs' : ∀ m, (((s.setSlot n { s.slot n with owner := Owner.unit }).serve w n).afterAction w g).slot m =
            ((s.setSlot n { s.slot n with owner := Owner.unit }).serve w n).slot m := fun m => by simp
        rw [hs']
        unfold State.serve
        split
        · by_cases e : m = n
          · subst e; simp
          · have : ¬ n = m := fun h => e h.symm
            simp [e, this, base]
        · by_cases e : m = n
          · subst e; simp
          · have : ¬ n = m := fun h => e h.symm
            simp [e, this, base, State.slot_setSlot]
      · dsimp only; rw [base]
        by_cases e : m = n
        · subst e; simp
        · have : ¬ n = m := fun h => e h.symm
          simp [e, this]

/-- The commands that change a slot as SlotStep says. -/
def KeepsOwners : Instr → Prop
  | .takeSlot .. => False
  | .releaseSlot .. => False
  | .writeSlot .. => False
  | .clearUnit .. => False
  | .porst => False
  | _ => True

/-- What such a command does to every slot. -/
theorem exec_slotsStep (c : Instr) (s t : State) (hc : KeepsOwners c) (h : exec c s = .next t) : SlotsStep s t := by
  cases c with
  | porst => exact hc.elim
  | porstRelease low => have e := execPorstRelease_frame low h; exact slotsStep_of_eq (by rw [e])
  | srst => exact srst_slotsStep s t h
  | srstRelease => have e := execSrstRelease_frame h; exact slotsStep_of_eq (by rw [e])
  | requestAccept request => have e := execRequestAccept_frame request h; exact slotsStep_of_eq (by rw [e])
  | classify => have e := execClassify_frame h; exact slotsStep_of_eq (by rw [e])
  | startTrigger => have e := execStartTrigger_frame h; exact slotsStep_of_eq (by rw [e])
  | watchAction => have e := execWatchAction_frame h; exact slotsStep_of_eq (by rw [e])
  | captureSlotAction => exact captureSlotAction_slotsStep s t h
  | captureQueueAction => exact captureQueueAction_slotsStep s t h
  | overlayAction => exact overlayAction_slotsStep s t h
  | historyAppend => have e := execHistoryAppend_frame h; exact slotsStep_of_eq (by rw [e])
  | recordNotice => have e := execRecordNotice_frame h; exact slotsStep_of_eq (by rw [e])
  | stopTrigger => have e := execStopTrigger_frame h; exact slotsStep_of_eq (by rw [e])
  | oneShotRetire => have e := execOneShotRetire_frame h; exact slotsStep_of_eq (by rw [e])
  | mportSend => have e := execMportSend_frame h; exact slotsStep_of_eq (by rw [e])
  | memoryResponse tag status beats => exact memoryResponse_slotsStep _ _ _ s t h
  | tick => exact tick_slotsStep s t h
  | responseLimitExpiry entry => exact responseLimitExpiry_slotsStep _ s t h
  | stallLimitExpiry => have e := execStallLimitExpiry_frame h; exact slotsStep_of_eq (by rw [e])
  | arbiterGrant => have e := execArbiterGrant_frame h; exact slotsStep_of_eq (by rw [e])
  | linkFault period => have e := execLinkFault_frame period h; exact slotsStep_of_eq (by rw [e])
  | resync => have e := execResync_frame h; exact slotsStep_of_eq (by rw [e])
  | duplicate code seq => have e := execDuplicate_frame code seq h; exact slotsStep_of_eq (by rw [e])
  | unknownCommand code seq => have e := execUnknownCommand_frame code seq h; exact slotsStep_of_eq (by rw [e])
  | nop seq => have e := execNop_frame seq h; exact slotsStep_of_eq (by rw [e])
  | getStatus seq => have e := execGetStatus_frame seq h; exact slotsStep_of_eq (by rw [e])
  | clearUnit seq => exact hc.elim
  | writeEntry seq index image => have e := execWriteEntry_frame seq index image h; exact slotsStep_of_eq (by rw [e])
  | readEntry seq index => have e := execReadEntry_frame seq index h; exact slotsStep_of_eq (by rw [e])
  | enableEntry seq index => have e := execEnableEntry_frame seq index h; exact slotsStep_of_eq (by rw [e])
  | disableEntry seq index => have e := execDisableEntry_frame seq index h; exact slotsStep_of_eq (by rw [e])
  | clearEntryCounts seq index => have e := execClearEntryCounts_frame seq index h; exact slotsStep_of_eq (by rw [e])
  | setMode seq mode => have e := execSetMode_frame seq mode h; exact slotsStep_of_eq (by rw [e])
  | takeSlot seq slot => exact hc.elim
  | releaseSlot seq slot => exact hc.elim
  | writeSlot seq slot offset length data => exact hc.elim
  | readSlot seq slot => have e := execReadSlot_frame seq slot h; exact slotsStep_of_eq (by rw [e])
  | ackSlot seq slot sequence =>
      injection h with h; subst h; exact linkExecute_slotsStep _ _ _ _
          (withSlot_slotsStep _ _ _ fun n _ => ackSlot_slotsStep _ n s)
  | readHistory seq => have e := execReadHistory_frame seq h; exact slotsStep_of_eq (by rw [e])
  | configQueue seq first count mode watermark =>
      injection h with h; subst h; exact linkExecute_slotsStep _ _ _ _ (configQueue_slotsStep _ _ _ _ s)
  | popQueue seq => injection h with h; subst h; exact linkExecute_slotsStep _ _ _ _ (popQueue_slotsStep s)
  | switchBank seq group bank =>
      injection h with h; subst h; exact linkExecute_slotsStep _ _ _ _ (switchBank_slotsStep _ _ s)
  | sessionArm seq count => have e := execSessionArm_frame seq count h; exact slotsStep_of_eq (by rw [e])
  | sessionRun seq count => have e := execSessionRun_frame seq count h; exact slotsStep_of_eq (by rw [e])
  | sessionHalt seq => have e := execSessionHalt_frame seq h; exact slotsStep_of_eq (by rw [e])
  | sessionClear seq => injection h with h; subst h; exact linkExecute_slotsStep _ _ _ _ (sessionClear_slotsStep s)
  | setLimits seq response stall =>
      have e := execSetLimits_frame seq response stall h; exact slotsStep_of_eq (by rw [e])
  | setTimebase seq prescaler load value =>
      have e := execSetTimebase_frame seq prescaler load value h; exact slotsStep_of_eq (by rw [e])
  | readCounters seq => have e := execReadCounters_frame seq h; exact slotsStep_of_eq (by rw [e])
  | clearCounters seq set => have e := execClearCounters_frame seq set h; exact slotsStep_of_eq (by rw [e])
  | setAlertEnable seq set => have e := execSetAlertEnable_frame seq set h; exact slotsStep_of_eq (by rw [e])
  | ackAlert seq set => have e := execAckAlert_frame seq set h; exact slotsStep_of_eq (by rw [e])

/-- A property of one slot goes through the taking of a command frame. -/
theorem linkExecute_slot (run : State → State × Answer) (code seq : Byte) (s : State) (n : SlotId) (P : Slot → Prop)
    (h0 : P (s.slot n)) (h : P ((run s).1.slot n)) : P ((linkExecute code seq run s).slot n) := by
  rcases linkExecute_cases code seq run s with e | e | e <;> rw [e]
  · exact h0
  · unfold State.replay; split <;> exact h0
  · exact h

/-- A property of one slot goes through the check of a slot number. -/
theorem withSlot_slot (slot : Byte) (run : SlotId → State → State × Answer) (s : State) (n : SlotId)
    (P : Slot → Prop) (h0 : P (s.slot n)) (h : ∀ m, slot.toNat = m.val → P ((run m s).1.slot n))
    : P ((withSlot slot run s).1.slot n) := by
  rcases withSlot_cases slot run s with e | ⟨m, hm, e⟩ <;> rw [e]
  · exact h0
  · exact h m hm

/-- What TAKE_SLOT does to each slot (R52). -/
theorem takeSlot_slot (n : SlotId) (s : State) (m : SlotId) : (takeSlot n s).1.slot m = s.slot m ∨
    (m = n ∧ s.role n ≠ .queue ∧ (takeSlot n s).1.slot m = { s.slot m with owner := .tool }) := by
  unfold takeSlot
  split
  · left; rfl
  · rename_i h
    dsimp only
    rw [slot_setSlot_eq]
    split
    · rename_i e; subst e; right; exact ⟨rfl, h, rfl⟩
    · left; rfl

/-- What WRITE_SLOT does to each slot (R55). -/
theorem writeSlot_slot (o l : Byte) (d : Line) (n : SlotId) (s : State) (m : SlotId) : (writeSlot o l d n s).1.slot m
    = s.slot m ∨ (m = n ∧ (s.slot n).owner = .tool ∧ ∃ x, (writeSlot o l d n s).1.slot m =
    { s.slot m with data := x }) := by
  unfold writeSlot
  split
  · left; rfl
  · split
    · left; rfl
    · rename_i h
      dsimp only
      rw [slot_setSlot_eq]
      split
      · rename_i e; subst e; right; exact ⟨rfl, h, _, rfl⟩
      · left; rfl

/-- The descriptor describes beats of one line (R42). -/
def Slot.InLine (sl : Slot) : Prop := 1 ≤ sl.beats ∧ sl.firstBeat.toNat + sl.beats ≤ 8 ∧ sl.lineAddress.extractLsb' 0
    6 = 0

/-- A slot changed by such a command still describes beats of one line, given an acceptable request. -/
theorem inLine_of_slotStep {s : State} (hw : ∀ w, s.work = some w → acceptable w.request = true) {o n : Slot}
    (h : SlotStep s o n) (ho : Slot.InLine o) : Slot.InLine n := by
  rcases h.shape with ⟨a, b, c⟩ | ⟨w, hw', a, b, c⟩
  · unfold Slot.InLine; rw [a, b, c]; exact ho
  · have := hw w hw'
    unfold acceptable at this
    simp at this
    unfold Slot.InLine; rw [a, b, c]
    refine ⟨this.1.1.2, this.2, ?_⟩
    unfold lineAddress
    apply BitVec.eq_of_getLsbD_eq
    intro i hi
    simp
    intro _ _
    have : i = 0 ∨ i = 1 ∨ i = 2 ∨ i = 3 ∨ i = 4 ∨ i = 5 := by omega
    rcases this with h | h | h | h | h | h <;> subst h <;> decide

end Sys2Proof.Machine
end

