-- ==== Sys2Proof/Laws/Timers.lean ====
section
/-! SUPPORT. What taking the expiries of the limit timers leaves: none due, and the state itself where none was. -/

namespace Sys2Proof.Machine

namespace State

variable (s : State)

/-! ### The response limit (R135) -/

theorem settleResponse_of_due {t : Tag} (h : (s.track t).state = .forwarded) (hd : (s.track t).timer = .expiryDue) :
    s.settleResponse t = s.expireResponse t := if_pos ⟨h, hd⟩

theorem settleResponse_of_not_due {t : Tag} (h : (s.track t).state = .forwarded → (s.track t).timer ≠ .expiryDue) :
    s.settleResponse t = s := if_neg fun hd => h hd.1 hd.2

/-- An expiry touches the entry it is of, which is HELD then, and no other. -/
theorem expireResponse_track (t u : Tag) :
    (s.expireResponse t).track u = if t = u then
      { s.track t with
        state := .held, link := none, orphan := (s.track t).sent, buffer := some { status := .noAnswer, beats := [] },
        timer := .unlimited }
      else s.track u := by
  simp [expireResponse, track_setTrack]

/-- An expiry taken leaves no expiry due of its entry, and those of the others as they are. -/
theorem settleResponse_due (t u : Tag) :
    ((s.settleResponse t).track u).state = .forwarded ∧ ((s.settleResponse t).track u).timer = .expiryDue
      ↔ t ≠ u ∧ (s.track u).state = .forwarded ∧ (s.track u).timer = .expiryDue := by
  unfold settleResponse
  by_cases htu : t = u
  · subst htu
    split
    · simp [expireResponse_track]
    · rename_i hd; simpa using hd
  · split
    · simp [expireResponse_track, htu]
    · simp [htu]

theorem settleResponse_settleResponse (t : Tag) : (s.settleResponse t).settleResponse t = s.settleResponse t :=
  settleResponse_of_not_due _ fun h hd => ((s.settleResponse_due t t).mp ⟨h, hd⟩).1 rfl

theorem foldl_settleResponse_due (tags : List Tag) (u : Tag) :
    ((tags.foldl settleResponse s).track u).state = .forwarded ∧ ((tags.foldl settleResponse s).track u).timer = .expiryDue
      ↔ u ∉ tags ∧ (s.track u).state = .forwarded ∧ (s.track u).timer = .expiryDue := by
  induction tags generalizing s with
  | nil => simp
  | cons t rest ih =>
    rw [List.foldl_cons, ih, settleResponse_due, List.mem_cons, not_or, ne_comm]
    tauto

/-! ### The stall limit (R107) -/

theorem settleStall_of_due {w : Work} {g : Governor} {n : SlotId} (h : s.stall = some (w, g, n, .expiryDue)) :
    s.settleStall = s.expireStall w g := by
  unfold settleStall; rw [h]

theorem settleStall_of_not_due (h : ∀ w g n timer, s.stall = some (w, g, n, timer) → timer ≠ .expiryDue) :
    s.settleStall = s := by
  unfold settleStall
  split
  · rename_i hs; exact absurd rfl (h _ _ _ _ hs)
  all_goals rfl

/-- The stall is over once its expiry is taken. -/
theorem expireStall_stall (w : Work) (g : Governor) : (s.expireStall w g).stall = none := by
  unfold expireStall afterAction afterStop
  repeat' split
  all_goals rfl

/-- The expiry of the stall makes no entry FORWARDED and loads no timer. -/
theorem expireStall_due (w : Work) (g : Governor) (u : Tag) :
    ((s.expireStall w g).track u).state = .forwarded ∧ ((s.expireStall w g).track u).timer = .expiryDue →
      (s.track u).state = .forwarded ∧ (s.track u).timer = .expiryDue := by
  have h : (s.expireStall w g).track u
      = (s.answerLocally w { status := .overlayUnavailable, beats := [] } false).track u := by
    unfold expireStall; simp [track]
  rw [h, show (s.answerLocally w { status := .overlayUnavailable, beats := [] } false).track u
      = (s.setTrack w.entry { s.track w.entry with
          state := .held, slotServed := false, buffer := some { status := .overlayUnavailable, beats := [] } }).track u
    from rfl, track_setTrack]
  split
  · rintro ⟨h, _⟩; cases h
  · exact id

/-! ### Every timer (R167) -/

theorem settleTimers_noExpiryDue : s.settleTimers.NoExpiryDue := by
  have hf : ∀ u : Tag, ¬ ((((List.finRange 16).foldl settleResponse s).track u).state = .forwarded
      ∧ (((List.finRange 16).foldl settleResponse s).track u).timer = .expiryDue) := fun u h =>
    ((s.foldl_settleResponse_due _ u).mp h).1 (List.mem_finRange u)
  unfold settleTimers
  generalize (List.finRange 16).foldl settleResponse s = x at hf
  by_cases hd : ∃ w g n, x.stall = some (w, g, n, .expiryDue)
  · obtain ⟨w, g, n, hs⟩ := hd
    rw [x.settleStall_of_due hs]
    refine ⟨fun e h ht => hf e (x.expireStall_due w g e ⟨h, ht⟩), fun v h m timer hst => ?_⟩
    rw [expireStall_stall] at hst; cases hst
  · have hn : ∀ w g n timer, x.stall = some (w, g, n, timer) → timer ≠ .expiryDue := by
      rintro w g n timer h rfl; exact hd ⟨w, g, n, h⟩
    rw [x.settleStall_of_not_due hn]
    exact ⟨fun e h ht => hf e ⟨h, ht⟩, hn⟩

theorem settleTimers_of_noExpiryDue (h : s.NoExpiryDue) : s.settleTimers = s := by
  have hf : ∀ tags : List Tag, tags.foldl settleResponse s = s := by
    intro tags
    induction tags with
    | nil => rfl
    | cons t rest ih => rw [List.foldl_cons, s.settleResponse_of_not_due (h.1 t), ih]
  unfold settleTimers
  rw [hf, s.settleStall_of_not_due h.2]

theorem settleTimers_settleTimers : s.settleTimers.settleTimers = s.settleTimers :=
  settleTimers_of_noExpiryDue _ s.settleTimers_noExpiryDue

/-- The expiry rows, one after another, take what is due. -/
theorem afterExpiries_eq : s.afterExpiries = s.settleTimers := rfl

end State

end Sys2Proof.Machine
end

