-- ==== Sys2Proof/Laws/Tracker.lean ====
section
/-! SUPPORT. What each operation of the memory path does to a legal Tracker. -/

namespace Sys2Proof.Machine

/-! ### The entry under decision -/

/-- The Tracker entry of the request that the Classifier has not decided yet (R23). -/
def State.decidingEntry (s : State) : Option Tag :=
  match s.work with
  | none => none
  | some w => if w.stage.deciding then some w.entry else none

theorem decidingEntry_eq_some (s : State) (t : Tag) :
    s.decidingEntry = some t ↔ ∃ w, s.work = some w ∧ w.entry = t ∧ w.stage.deciding = true := by
  unfold State.decidingEntry
  cases s.work with
  | none => simp
  | some w => by_cases h : w.stage.deciding <;> simp [h]

theorem decidingEntry_of_work {s : State} {w : Work} (h : s.work = some w) (hd : w.stage.deciding = true) :
    s.decidingEntry = some w.entry := (decidingEntry_eq_some s w.entry).mpr ⟨w, h, rfl, hd⟩

/-- The entry under decision holds no link before a record is made (R60, R85). -/
def State.UnrecordedUnlinked (s : State) : Prop :=
  ∀ w, s.work = some w → w.stage.deciding = true → w.stage.recorded = false → (s.track w.entry).link = none

/-- With nothing under decision there is no link to speak of. -/
theorem unrecordedUnlinked_of_none {s : State} (h : s.decidingEntry = none) : s.UnrecordedUnlinked := by
  intro w hw hd _
  rw [decidingEntry_of_work hw hd] at h
  cases h

theorem classifying_iff {s : State} (h : s.EntriesLegal) (t : Tag) :
    (s.track t).state = .classifying ↔ s.decidingEntry = some t := by
  rw [h.2.1 t, decidingEntry_eq_some]

/-! ### One entry changes -/

/-- A legal Tracker stays legal when one entry changes, with its place in one order list and in the send list, so that
each list still holds exactly the entries it should. -/
theorem trackerLegal_of_update {s s' : State} (h : s.TrackerLegal) (t : Tag) (k : SourceId)
    (ht : ∀ u, u ≠ t → s'.track u = s.track u) (he : (s'.track t).Legal)
    (hc : (s'.track t).state = .classifying ↔ s'.decidingEntry = some t)
    (hd : ∀ u, u ≠ t → (s'.decidingEntry = some u ↔ s.decidingEntry = some u))
    (ho : ∀ src, src ≠ k → s'.order src = s.order src) (hn : (s'.order k).Nodup)
    (hm : ∀ u, u ≠ t → (u ∈ s'.order k ↔ u ∈ s.order k))
    (hk : t ∈ s'.order k ↔ (s'.track t).listed ∧ (s'.track t).source = k)
    (hk' : ∀ src, src ≠ k → (t ∈ s.order src ↔ (s'.track t).listed ∧ (s'.track t).source = src))
    (hsn : (s'.tracker.sendList.map SendItem.entry).Nodup)
    (hsm : ∀ u, u ≠ t → (u ∈ s'.tracker.sendList.map SendItem.entry ↔ u ∈ s.tracker.sendList.map SendItem.entry))
    (hst : t ∈ s'.tracker.sendList.map SendItem.entry ↔ (s'.track t).state = .forwarded ∧ (s'.track t).sent = false)
    (hul : s'.UnrecordedUnlinked) :
    s'.TrackerLegal := by
  obtain ⟨⟨hl, hcl, -⟩, hord, hsend⟩ := h
  refine ⟨⟨fun u => ?_, fun u => ?_, hul⟩, fun src => ⟨?_, fun u => ?_⟩, hsn, fun u => ?_⟩
  · by_cases hu : u = t
    · subst hu
      exact he
    · rw [ht u hu]
      exact hl u
  · rw [← decidingEntry_eq_some]
    by_cases hu : u = t
    · subst hu
      exact hc
    · rw [ht u hu, hd u hu, hcl u, decidingEntry_eq_some]
  · by_cases hs : src = k
    · subst hs
      exact hn
    · rw [ho src hs]
      exact (hord src).1
  · by_cases hu : u = t
    · subst hu
      by_cases hs : src = k
      · subst hs
        exact hk
      · rw [ho src hs]
        exact hk' src hs
    · rw [ht u hu, ← (hord src).2 u]
      by_cases hs : src = k
      · subst hs
        exact hm u hu
      · rw [ho src hs]
  · by_cases hu : u = t
    · subst hu
      exact hst
    · rw [hsm u hu, ht u hu]
      exact hsend.2 u

/-- A legal Tracker stays legal when nothing of it changes, nor the entry under decision. -/
theorem trackerLegal_of_same {s s' : State} (h : s.TrackerLegal) (hk : ∀ t, s'.track t = s.track t)
    (ho : ∀ src, s'.order src = s.order src) (hs : s'.tracker.sendList = s.tracker.sendList)
    (hd : s'.decidingEntry = s.decidingEntry) (hul : s'.UnrecordedUnlinked) : s'.TrackerLegal := by
  obtain ⟨⟨hl, hcl, -⟩, hord, hsend⟩ := h
  refine ⟨⟨fun u => ?_, fun u => ?_, hul⟩, fun src => ?_, ?_⟩
  · rw [hk]
    exact hl u
  · rw [hk, hcl u, ← decidingEntry_eq_some, ← decidingEntry_eq_some, hd]
  · rw [ho]
    simp only [hk]
    exact hord src
  · unfold State.SendListLegal
    rw [hs]
    simp only [hk]
    exact hsend

/-- A legal Tracker stays legal when the fields of one entry change that its lists do not look at. -/
theorem trackerLegal_of_setTrack {s : State} (h : s.TrackerLegal) (t : Tag) (e : TrackerEntry) (he : e.Legal)
    (hstate : e.state = (s.track t).state) (hsource : e.source = (s.track t).source) (hsent : e.sent = (s.track t).sent)
    (hul : (s.setTrack t e).UnrecordedUnlinked) : (s.setTrack t e).TrackerLegal := by
  have hte : (s.setTrack t e).track t = e := by simp
  have htu : ∀ u, u ≠ t → (s.setTrack t e).track u = s.track u := by
    intro u hu
    rw [State.track_setTrack, if_neg (Ne.symm hu)]
  have hdec : (s.setTrack t e).decidingEntry = s.decidingEntry := rfl
  have hord : ∀ src, (s.setTrack t e).order src = s.order src := fun _ => rfl
  have hlist : ∀ src, t ∈ s.order src ↔ e.listed ∧ e.source = src := by
    intro src
    rw [(h.2.1 src).2 t]
    unfold TrackerEntry.listed
    rw [hstate, hsource]
  refine trackerLegal_of_update h t e.source htu (by rwa [hte]) ?_ (fun u hu => by rw [hdec]) (fun _ _ => rfl)
    (h.2.1 _).1 (fun _ _ => Iff.rfl) ?_ (fun src _ => by rw [hte]; exact hlist src) h.2.2.1 (fun _ _ => Iff.rfl) ?_ hul
  · rw [hte, hstate, hdec]
    exact classifying_iff h.1 t
  · rw [hte]
    exact hlist _
  · rw [hte, hstate, hsent]
    exact h.2.2.2 t

/-- What a legal Tracker says of the entry under decision: it is CLASSIFYING, with nothing set but perhaps a link, and in
no list (R128, R130). -/
theorem deciding_facts {s : State} (h : s.TrackerLegal) {t : Tag} (hd : s.decidingEntry = some t) :
    (s.track t).state = .classifying ∧ (s.track t).slotServed = false ∧ (s.track t).orphan = false
      ∧ (s.track t).buffer = none ∧ (s.track t).timer = .unlimited ∧ (∀ src, t ∉ s.order src)
      ∧ t ∉ s.tracker.sendList.map SendItem.entry := by
  have hc : (s.track t).state = .classifying := (classifying_iff h.1 t).mpr hd
  obtain ⟨h1, h2, h3, h4, h5⟩ := h.1.1 t
  refine ⟨hc, ?_, ?_, ?_, ?_, fun src => ?_, ?_⟩
  · rw [← Bool.not_eq_true]
    intro hx
    rw [h2 hx] at hc
    cases hc
  · rw [← Bool.not_eq_true]
    intro hx
    rw [h3 hx] at hc
    cases hc
  · cases hb : (s.track t).buffer with
    | none => rfl
    | some b =>
      rw [h4.mp (by simp [hb])] at hc
      cases hc
  · by_contra hx
    rw [h5 hx] at hc
    cases hc
  · rw [(h.2.1 src).2 t]
    unfold TrackerEntry.listed
    rw [hc]
    simp
  · rw [h.2.2.2 t, hc]
    simp

/-! ### The operations -/

/-- Forwarding the request under decision, with the work then past its decision, keeps the Tracker legal (R132). -/
theorem forward_keeps_trackerLegal {s : State} (h : s.TrackerLegal) {w : Work} (hd : s.decidingEntry = some w.entry)
    {x : Option Work} (hx : ((s.forward w).setWork x).decidingEntry = none) :
    ((s.forward w).setWork x).TrackerLegal := by
  obtain ⟨hc, h1, h2, h3, h4, h5, h6⟩ := deciding_facts h hd
  have hcd := classifying_iff h.1
  generalize hs' : (s.forward w).setWork x = s' at *
  have hte : s'.track w.entry
      = { s.track w.entry with
          state := .forwarded, slotServed := false, sent := false, timer := loadTimer s.tracker.responseLimit } := by
    rw [← hs']
    simp [State.forward]
  have htu : ∀ u, u ≠ w.entry → s'.track u = s.track u := by
    intro u hu
    rw [← hs']
    simp [State.forward, State.track_setTrack, Ne.symm hu]
  have hord : ∀ src, s'.order src
      = if (s.track w.entry).source = src then s.order (s.track w.entry).source ++ [w.entry] else s.order src := by
    intro src
    rw [← hs']
    simp [State.forward, State.order_setOrder]
  have hsend : s'.tracker.sendList = s.tracker.sendList ++ [{ entry := w.entry, request := w.request }] := by
    rw [← hs']
    rfl
  refine trackerLegal_of_update h w.entry (s.track w.entry).source htu ?_ ?_ ?_ ?_ ?_ ?_ ?_ ?_ ?_ ?_ ?_
    (unrecordedUnlinked_of_none hx)
  · rw [hte]
    exact ⟨fun _ => .inr rfl, by simp, by simp [h2], by simp [h3], fun _ => rfl⟩
  · rw [hte, hx]
    simp
  · intro u hu
    rw [hx, hd]
    simp [Ne.symm hu]
  · intro src hsrc
    rw [hord, if_neg (Ne.symm hsrc)]
  · rw [hord, if_pos rfl, List.nodup_append]
    refine ⟨(h.2.1 _).1, List.nodup_singleton _, ?_⟩
    intro a ha b hb
    rw [List.mem_singleton] at hb
    subst hb
    rintro rfl
    exact h5 _ ha
  · intro u hu
    rw [hord, if_pos rfl]
    simp [hu]
  · rw [hord, if_pos rfl, hte]
    simp [TrackerEntry.listed]
  · intro src hsrc
    rw [hte]
    simp [TrackerEntry.listed, h5 src, Ne.symm hsrc]
  · rw [hsend, List.map_append, List.nodup_append]
    refine ⟨h.2.2.1, List.nodup_singleton _, ?_⟩
    intro a ha b hb
    simp only [List.map_cons, List.map_nil, List.mem_singleton] at hb
    subst hb
    rintro rfl
    exact h6 ha
  · intro u hu
    rw [hsend]
    simp [hu]
  · rw [hsend, hte]
    simp

/-- The entry under decision holds no link before a record is made. -/
theorem unlinked_of_deciding {s : State} (h : s.TrackerLegal) {w : Work} (hw : s.work = some w)
    (hd : w.stage.deciding = true) (hr : w.stage.recorded = false) : (s.track w.entry).link = none :=
  h.1.2.2 w hw hd hr

/-- Answering the request under decision locally, with the work then past its decision, keeps the Tracker legal (R132). -/
theorem answerLocally_keeps_trackerLegal {s : State} (h : s.TrackerLegal) {w : Work} (response : Response) (served : Bool)
    (hd : s.decidingEntry = some w.entry) (hl : (s.track w.entry).link = none) {x : Option Work}
    (hx : ((s.answerLocally w response served).setWork x).decidingEntry = none) :
    ((s.answerLocally w response served).setWork x).TrackerLegal := by
  obtain ⟨hc, h1, h2, h3, h4, h5, h6⟩ := deciding_facts h hd
  generalize hs' : (s.answerLocally w response served).setWork x = s' at *
  have hte : s'.track w.entry
      = { s.track w.entry with state := .held, slotServed := served, buffer := some response } := by
    rw [← hs']
    simp [State.answerLocally]
  have htu : ∀ u, u ≠ w.entry → s'.track u = s.track u := by
    intro u hu
    rw [← hs']
    simp [State.answerLocally, State.track_setTrack, Ne.symm hu]
  have hord : ∀ src, s'.order src
      = if (s.track w.entry).source = src then s.order (s.track w.entry).source ++ [w.entry] else s.order src := by
    intro src
    rw [← hs']
    simp [State.answerLocally, State.order_setOrder]
  have hsend : s'.tracker.sendList = s.tracker.sendList := by
    rw [← hs']
    rfl
  refine trackerLegal_of_update h w.entry (s.track w.entry).source htu ?_ ?_ ?_ ?_ ?_ ?_ ?_ ?_ ?_ ?_ ?_
    (unrecordedUnlinked_of_none hx)
  · rw [hte]
    exact ⟨by simp [hl], fun _ => rfl, by simp [h2], by simp, by simp [h4]⟩
  · rw [hte, hx]
    simp
  · intro u hu
    rw [hx, hd]
    simp [Ne.symm hu]
  · intro src hsrc
    rw [hord, if_neg (Ne.symm hsrc)]
  · rw [hord, if_pos rfl, List.nodup_append]
    refine ⟨(h.2.1 _).1, List.nodup_singleton _, ?_⟩
    intro a ha b hb
    rw [List.mem_singleton] at hb
    subst hb
    rintro rfl
    exact h5 _ ha
  · intro u hu
    rw [hord, if_pos rfl]
    simp [hu]
  · rw [hord, if_pos rfl, hte]
    simp [TrackerEntry.listed]
  · intro src hsrc
    rw [hte]
    simp [TrackerEntry.listed, h5 src, Ne.symm hsrc]
  · rw [hsend]
    exact h.2.2.1
  · intro u hu
    rw [hsend]
  · rw [hsend, hte]
    simp only [reduceCtorEq, false_and, iff_false]
    exact h6

end Sys2Proof.Machine
end

