-- ==== Sys2Proof/Laws/TrackerOps.lean ====
section
/-! SUPPORT. How each operation on the memory path keeps the Tracker legal. -/

namespace Sys2Proof.Machine

/-- A change outside the Tracker and the request under classification keeps the Tracker legal. -/
theorem trackerLegal_of_eq {s s' : State} (ht : s'.tracker = s.tracker) (hw : s'.work = s.work) (h : s.TrackerLegal)
    : s'.TrackerLegal := by
  refine trackerLegal_of_same h (fun t => by simp [State.track, ht]) (fun src => by simp [State.order, ht])
      (by rw [ht]) (by simp [State.decidingEntry, hw]) ?_
  intro w h1 h2 h3
  rw [hw] at h1
  have := h.1.2.2 w h1 h2 h3
  simpa [State.track, ht] using this

/-- A change of the pointer and the limit values alone keeps the Tracker legal. -/
theorem trackerLegal_of_lists {s s' : State} (he : s'.tracker.entries = s.tracker.entries)
    (ho : s'.tracker.orders = s.tracker.orders) (hl : s'.tracker.sendList = s.tracker.sendList)
    (hw : s'.work = s.work) (h : s.TrackerLegal) : s'.TrackerLegal := by
  refine trackerLegal_of_same h (fun t => by simp [State.track, he]) (fun src => by simp [State.order, ho])
      (by rw [hl]) (by simp [State.decidingEntry, hw]) ?_
  intro w h1 h2 h3
  rw [hw] at h1
  have := h.1.2.2 w h1 h2 h3
  simpa [State.track, he] using this

/-- A step of the Classifier before its decision, which does not touch the Tracker, keeps it legal. -/
theorem trackerLegal_of_stage {s s' : State} {w : Work} {st : Stage} (ht : s'.tracker = s.tracker)
    (hw : s.work = some w)
    (hw' : s'.work = some { w with stage := st }) (hd : st.deciding = w.stage.deciding)
    (hr : st.deciding = true → st.recorded = false → w.stage.recorded = false) (h : s.TrackerLegal)
        : s'.TrackerLegal := by
  refine trackerLegal_of_same h (fun t => by simp [State.track, ht]) (fun src => by simp [State.order, ht])
      (by rw [ht]) (by simp [State.decidingEntry, hw, hw', hd]) ?_
  intro v h1 h2 h3
  rw [hw'] at h1; injection h1 with h1; subst h1
  have := h.1.2.2 w hw (by simpa [← hd] using h2) (hr h2 h3)
  simpa [State.track, ht] using this

/-- A change within the stage of the request under classification, which decides nothing and makes no record, keeps the
Tracker legal. -/
theorem trackerLegal_of_mapStage {s s' : State} {f : Stage → Stage} (ht : s'.tracker = s.tracker)
    (hw : s'.work = s.work.map fun w => { w with stage := f w.stage }) (hd : ∀ st, (f st).deciding = st.deciding)
    (hr : ∀ st, (f st).recorded = st.recorded) (h : s.TrackerLegal) : s'.TrackerLegal := by
  cases hs : s.work with
  | none => exact trackerLegal_of_eq ht (by rw [hw, hs]; rfl) h
  | some w =>
    refine trackerLegal_of_stage (st := f w.stage) ht hs (by rw [hw, hs]; rfl) (hd _) (fun _ h' => ?_) h
    rwa [hr] at h'

/-- Turning an entry ON keeps the Tracker legal (R11, R18). -/
theorem turnOn_keeps_trackerLegal (i : Fin 32) {s : State} (h : s.TrackerLegal) : (s.turnOn i).TrackerLegal := by
  refine trackerLegal_of_mapStage (s := s) (f := Stage.mapGovernor fun g => if g.index = i then { g with renewed := true } else g)
    rfl rfl ?_ ?_ h <;> intro st <;> cases st <;> rfl

/-- Leaving FROZEN keeps the Tracker legal (R121, R122). -/
theorem leaveFrozen_keeps_trackerLegal (x : Session) {s : State} (h : s.TrackerLegal) :
    (s.leaveFrozen x).TrackerLegal := by
  refine trackerLegal_of_mapStage (s := s) (f := Stage.ignoreStop) rfl rfl ?_ ?_ h <;> intro st <;> cases st <;> rfl

/-- A step of the Classifier after its decision, which does not touch the Tracker, keeps it legal. -/
theorem trackerLegal_of_idle {s s' : State} (ht : s'.tracker = s.tracker) (hd : s.decidingEntry = none)
    (hd' : s'.decidingEntry = none) (h : s.TrackerLegal) : s'.TrackerLegal :=
  trackerLegal_of_same h (fun t => by simp [State.track, ht]) (fun src => by simp [State.order, ht]) (by rw [ht])
      (by rw [hd, hd']) (unrecordedUnlinked_of_none hd')

/-- After the action no decision is open (R25). -/
theorem decidingEntry_afterAction (w : Work) (g : Governor) (s : State)
    : (s.setWork (if g.image.trigger = 2#8 then some { w with stage := .stop g }
          else if g.image.oneShot = 1#8 then some { w with stage := .retire g } else none)).decidingEntry = none := by
  unfold State.decidingEntry
  split
  · rfl
  · rename_i x hx
    simp at hx
    split at hx
    · injection hx with hx; subst hx; rfl
    · split at hx <;> simp at hx
      subst hx; rfl

/-- After the STOP trigger no decision is open (R25). -/
theorem decidingEntry_afterStop (w : Work) (g : Governor) (s : State)
    : (s.setWork (if g.image.oneShot = 1#8 then some { w with stage := .retire g } else none)).decidingEntry =
    none := by
  unfold State.decidingEntry
  split
  · rfl
  · rename_i x hx
    simp at hx
    obtain ⟨_, rfl⟩ := hx; rfl

/-- Forwarding the request whose decision is open keeps the Tracker legal. -/
theorem forwardAndGoOn_keeps_trackerLegal {s : State} (h : s.TrackerLegal) {w : Work} (g : Governor)
    (hd : s.decidingEntry = some w.entry) : (s.forwardAndGoOn w g).TrackerLegal := by
  unfold State.forwardAndGoOn
  rw [afterAction_eq]
  exact forward_keeps_trackerLegal h hd (decidingEntry_afterAction w g _)

/-- Serving the request whose decision is open keeps the Tracker legal. -/
theorem serveAndGoOn_keeps_trackerLegal {s : State} (h : s.TrackerLegal) {w : Work} (g : Governor) (n : SlotId)
    (hd : s.decidingEntry = some w.entry) (hl : (s.track w.entry).link = none)
    : ((s.serve w n).afterAction w g).TrackerLegal := by
  rw [afterAction_eq]
  unfold State.serve
  split
  · exact answerLocally_keeps_trackerLegal h _ _ hd hl (decidingEntry_afterAction w g _)
  · have h' : (s.setSlot n { s.slot n with data := mergeLine (s.slot n).data (writeByte w.request) }).TrackerLegal :=
        trackerLegal_of_eq rfl rfl h
    exact answerLocally_keeps_trackerLegal h' _ _ hd hl (decidingEntry_afterAction w g _)

/-- The decision of a stalled request is open, and it has no record. -/
theorem stall_facts {s : State} {w g n tm} (h : s.stall = some (w, g, n, tm)) : s.work = some w ∧ s.decidingEntry =
    some w.entry ∧ w.stage.deciding = true ∧ w.stage.recorded = false := by
  rw [stall_eq_some] at h
  obtain ⟨h1, h2⟩ := h
  have : w.stage.deciding = true := by rw [h2]; rfl
  exact ⟨h1, decidingEntry_of_work h1 this, this, by rw [h2]; rfl⟩

/-- The expiry of the stall limit keeps the Tracker legal (R107). -/
theorem expireStall_keeps_trackerLegal {s : State} (h : s.TrackerLegal) {w : Work} (g : Governor)
    (hd : s.decidingEntry = some w.entry) (hl : (s.track w.entry).link = none) : (s.expireStall w g).TrackerLegal := by
  unfold State.expireStall
  rw [afterAction_eq]
  refine trackerLegal_of_eq ?_ ?_ (answerLocally_keeps_trackerLegal h { status := .overlayUnavailable, beats := [] } false
    hd hl (decidingEntry_afterAction w g _)) <;> rfl

/-- Taking the stall's expiry where it is due keeps the Tracker legal (R107). -/
theorem settleStall_keeps_trackerLegal {s : State} (h : s.TrackerLegal) : s.settleStall.TrackerLegal := by
  unfold State.settleStall
  split
  · rename_i hst
    obtain ⟨h1, h2, h3, h4⟩ := stall_facts hst
    exact expireStall_keeps_trackerLegal h _ h2 (unlinked_of_deciding h h1 h3 h4)
  all_goals exact h

/-- A service that ends a stall, or its expiry in place of it, keeps the Tracker legal (R104, R106, R107). -/
theorem serveStalled_keeps_trackerLegal {s : State} (h : s.TrackerLegal) {w : Work} (g : Governor) (n : SlotId)
    (timer : LimitTimer) (hd : s.decidingEntry = some w.entry) (hl : (s.track w.entry).link = none) :
    (s.serveStalled w g n timer).TrackerLegal := by
  unfold State.serveStalled
  split
  · exact expireStall_keeps_trackerLegal h g hd hl
  · exact serveAndGoOn_keeps_trackerLegal h g n hd hl

/-- SET_MODE keeps the Tracker legal. -/
theorem setMode_keeps_trackerLegal (mode : Byte) (s : State) (h : s.TrackerLegal)
    : (setMode mode s).1.TrackerLegal := by
  have key : ∀ m, ((s.setMode m).endStallByMode).TrackerLegal := by
    intro m
    have hm : (s.setMode m).TrackerLegal := trackerLegal_of_eq rfl rfl h
    unfold State.endStallByMode
    split
    · exact hm
    · rename_i w g n tm hst
      obtain ⟨h1, h2, h3, h4⟩ := stall_facts hst
      split
      · exact expireStall_keeps_trackerLegal hm g h2 (unlinked_of_deciding hm h1 h3 h4)
      · rw [afterStop_eq]
        exact forward_keeps_trackerLegal hm h2 (decidingEntry_afterStop w g _)
  unfold setMode modeBypass modeActive
  repeat' split
  all_goals first | exact h | exact key _

/-- RELEASE_SLOT keeps the Tracker legal. -/
theorem releaseSlot_keeps_trackerLegal (n : SlotId) (s : State) (h : s.TrackerLegal)
    : (releaseSlot n s).1.TrackerLegal := by
  have hr : (s.setSlot n { s.slot n with owner := .unit }).TrackerLegal := trackerLegal_of_eq rfl rfl h
  unfold releaseSlot
  split
  · exact h
  · dsimp only
    split
    · exact hr
    · rename_i w g slot tm hst
      obtain ⟨h1, h2, h3, h4⟩ := stall_facts hst
      split
      · exact serveStalled_keeps_trackerLegal hr g n tm h2 (unlinked_of_deciding hr h1 h3 h4)
      · exact hr

/-- SWITCH_BANK keeps the Tracker legal. -/
theorem switchBank_keeps_trackerLegal (group bank : Byte) (s : State) (h : s.TrackerLegal)
    : (switchBank group bank s).1.TrackerLegal := by
  unfold switchBank
  split
  · split
    · unfold setBank
      split
      · exact h
      · dsimp only
        rename_i k named _ _
        have hr : ({ s with banks := s.banks.set group.toNat named } : State).TrackerLegal := trackerLegal_of_eq rfl
            rfl h
        unfold State.rederiveGroup
        split
        · exact hr
        · rename_i w g slot tm hst
          obtain ⟨h1, h2, h3, h4⟩ := stall_facts hst
          split
          · unfold State.rederive
            split
            · exact serveStalled_keeps_trackerLegal hr g _ tm h2 (unlinked_of_deciding hr h1 h3 h4)
            · refine trackerLegal_of_stage (s := { s with banks := s.banks.set group.toNat named }) rfl h1 rfl
                  (by rw [h3]; rfl) (fun _ _ => h4) hr
          · exact hr
    · exact h
  · exact h

/-- CLEAR_UNIT keeps the Tracker legal. -/
theorem clearUnit_keeps_trackerLegal (s : State) (h : s.TrackerLegal) : (clearUnit s).1.TrackerLegal := by
  unfold clearUnit
  split
  · exact trackerLegal_of_lists rfl rfl rfl rfl h
  · exact h

/-- The entry that acceptance takes is FREE (R128). -/
theorem state_of_lowestFree {s : State} {t : Tag} (h : s.lowestFree = some t) : (s.track t).state = .free := by
  unfold State.lowestFree at h
  have := List.find?_some h
  simpa using this

/-- A FREE entry of a legal Tracker has every mark clear and is in no list. -/
theorem free_facts {s : State} (h : s.TrackerLegal) {t : Tag} (hc : (s.track t).state = .free) :
  (s.track t).link = none ∧ (s.track t).slotServed = false ∧ (s.track t).orphan = false
      ∧ (s.track t).buffer = none ∧ (s.track t).timer = .unlimited ∧ (∀ src, t ∉ s.order src)
      ∧ t ∉ s.tracker.sendList.map SendItem.entry := by
  obtain ⟨h1, h2, h3, h4, h5⟩ := h.1.1 t
  refine ⟨?_, ?_, ?_, ?_, ?_, fun src => ?_, ?_⟩
  · cases hb : (s.track t).link with
    | none => rfl
    | some b => rcases h1 (by simp [hb]) with h | h <;> rw [h] at hc <;> cases hc
  · rw [← Bool.not_eq_true]; intro hx; rw [h2 hx] at hc; cases hc
  · rw [← Bool.not_eq_true]; intro hx; rw [h3 hx] at hc; cases hc
  · cases hb : (s.track t).buffer with
    | none => rfl
    | some b => rw [h4.mp (by simp [hb])] at hc; cases hc
  · by_contra hx; rw [h5 hx] at hc; cases hc
  · rw [(h.2.1 src).2 t]; unfold TrackerEntry.listed; rw [hc]; simp
  · rw [h.2.2.2 t, hc]; simp

/-- Acceptance and rejection keep the Tracker legal (R128, R129). -/
theorem accept_keeps_trackerLegal (r : Request) (s : State) (h : s.TrackerLegal) : (if s.portOpen then
      match s.lowestFree with
      | none => s
      | some t => if acceptable r then s.acceptValid t r else s.acceptRejected t r
    else s).TrackerLegal := by
  split
  · rename_i hp
    have hw : s.work = none := by unfold State.portOpen at hp; simp at hp; exact hp.1.1
    have hd : s.decidingEntry = none := by unfold State.decidingEntry; rw [hw]
    split
    · exact h
    · rename_i t ht
      have hf := state_of_lowestFree ht
      obtain ⟨f1, f2, f3, f4, f5, f6, f7⟩ := free_facts h hf
      split
      · generalize hs' : s.acceptValid t r = s'
        have hte : s'.track t = { s.track t with state := .classifying, source := r.source, kind := r.kind, beats :=
            r.beats } := by
          rw [← hs']; simp [State.acceptValid]
        have htu : ∀ u, u ≠ t → s'.track u = s.track u := by
          intro u hu; rw [← hs']; simp [State.acceptValid, State.track_setTrack, Ne.symm hu]
        have hdd : s'.decidingEntry = some t := by rw [← hs']; rfl
        refine trackerLegal_of_update h t r.source htu ?_ ?_ ?_ (fun src _ => by rw [← hs']; rfl) ?_ ?_ ?_ ?_ ?_ ?_
            ?_ ?_
        · rw [hte]; refine ⟨by simp [f1], by simp [f2], by simp [f3], by simp [f4], by simp [f5]⟩
        · rw [hte, hdd]; simp
        · intro u hu; rw [hdd, hd]; simp [Ne.symm hu]
        · rw [← hs']; exact (h.2.1 _).1
        · intro u hu; rw [← hs']; rfl
        · rw [hte]; simp [TrackerEntry.listed]; rw [← hs']; exact f6 _
        · intro src _; rw [hte]; simp [TrackerEntry.listed]; exact f6 _
        · rw [← hs']; exact h.2.2.1
        · intro u hu; rw [← hs']; rfl
        · have hz : s'.tracker.sendList = s.tracker.sendList := by rw [← hs']; rfl
          rw [hte, hz]; simp; simpa using f7
        · intro w h1 h2 h3
          have : w.entry = t := by
            have := decidingEntry_of_work h1 h2; rw [hdd] at this; injection this with this; exact this.symm
          rw [this, hte]; exact f1
      · have hbase : ((s.setTrack t { s.track t with
                state := .held, source := r.source, kind := r.kind
                buffer := some { status := .rejected, beats := [] } }).setOrder r.source
                    (s.order r.source ++ [t])).TrackerLegal := by
          generalize hs' : (s.setTrack t { s.track t with
                state := .held, source := r.source, kind := r.kind
                buffer := some { status := .rejected, beats := [] } }).setOrder r.source (s.order r.source ++ [t]) =
                    s'
          have hte : s'.track t = { s.track t with
                state := .held, source := r.source, kind := r.kind
                buffer := some { status := .rejected, beats := [] } } := by
            rw [← hs']; simp
          have htu : ∀ u, u ≠ t → s'.track u = s.track u := by
            intro u hu; rw [← hs']; simp [State.track_setTrack, Ne.symm hu]
          have hord : ∀ src, s'.order src = if r.source = src then s.order r.source ++ [t] else s.order src := by
            intro src; rw [← hs']; simp [State.order_setOrder]
          have hdd : s'.decidingEntry = none := by rw [← hs']; exact hd
          refine trackerLegal_of_update h t r.source htu ?_ ?_ ?_ ?_ ?_ ?_ ?_ ?_ ?_ ?_ ?_
              (unrecordedUnlinked_of_none hdd)
          · rw [hte]; exact ⟨by simp [f1], fun _ => rfl, fun _ => rfl, by simp, by simp [f5]⟩
          · rw [hte, hdd]; simp
          · intro u hu; rw [hdd, hd]
          · intro src hsrc; rw [hord, if_neg (Ne.symm hsrc)]
          · rw [hord, if_pos rfl, List.nodup_append]
            refine ⟨(h.2.1 _).1, List.nodup_singleton _, ?_⟩
            intro a ha b hb
            rw [List.mem_singleton] at hb; subst hb
            rintro rfl; exact f6 _ ha
          · intro u hu; rw [hord, if_pos rfl]; simp [hu]
          · rw [hord, if_pos rfl, hte]; simp [TrackerEntry.listed]
          · intro src hsrc; rw [hte]; simp [TrackerEntry.listed, f6 src, Ne.symm hsrc]
          · rw [← hs']; exact h.2.2.1
          · intro u hu; rw [← hs']; rfl
          · rw [hte]; simp; rw [← hs']; simpa using f7
        unfold State.acceptRejected
        exact trackerLegal_of_eq rfl rfl hbase
  · exact h

/-- Passing the oldest request of the send list keeps the Tracker legal (R133). -/
theorem passOldest_keeps_trackerLegal (s : State) (h : s.TrackerLegal) : (match s.tracker.sendList with
    | [] => s
    | item :: rest => s.passOldest item rest).TrackerLegal := by
  split
  · exact h
  · rename_i item rest hl
    have hn := h.2.2.1
    have hm := h.2.2.2 item.entry
    rw [hl] at hn hm
    simp only [List.map_cons, List.nodup_cons] at hn
    have hfs := hm.mp (by simp)
    generalize hs' : s.passOldest item rest = s'
    have hte : s'.track item.entry = { s.track item.entry with sent := true } := by
      rw [← hs']; show ((s.setTrack item.entry _).setSendList rest).track item.entry = _; simp
    have htu : ∀ u, u ≠ item.entry → s'.track u = s.track u := by
      intro u hu; rw [← hs']; show ((s.setTrack item.entry _).setSendList rest).track u = _;
          simp [State.track_setTrack, Ne.symm hu]
    have hord : ∀ src, s'.order src = s.order src := by intro src; rw [← hs']; rfl
    have hdd : s'.decidingEntry = s.decidingEntry := by rw [← hs']; rfl
    have hsl : s'.tracker.sendList = rest := by rw [← hs']; rfl
    have hlist : ∀ src, item.entry ∈ s.order src ↔ (s'.track item.entry).listed ∧ (s'.track item.entry).source =
        src := by
      intro src; rw [(h.2.1 src).2, hte]; rfl
    refine trackerLegal_of_update h item.entry (s.track item.entry).source htu ?_ ?_ ?_ (fun src _ => hord src) ?_ ?_
        ?_ (fun src _ => hlist src) ?_ ?_ ?_ ?_
    · rw [hte]; exact h.1.1 item.entry
    · rw [hdd, hte]; exact classifying_iff h.1 _
    · intro u hu; rw [hdd]
    · rw [hord]; exact (h.2.1 _).1
    · intro u hu; rw [hord]
    · rw [hord]; exact hlist _
    · rw [hsl]; exact hn.2
    · intro u hu; rw [hsl, hl]; simp [hu]
    · rw [hsl, hte]; simp; simpa using hn.1
    · intro w h1 h2 h3
      have hw : s.work = some w := by rw [← hs'] at h1; exact h1
      have := h.1.2.2 w hw h2 h3
      have hc := (classifying_iff h.1 w.entry).mpr (decidingEntry_of_work hw h2)
      have hne : w.entry ≠ item.entry := by intro he; rw [he, hfs.1] at hc; cases hc
      rw [htu _ hne]; exact this

/-- A FORWARDED entry that becomes HELD, off the send list, keeps the Tracker legal (R134, R135). -/
theorem trackerLegal_of_held {s s' : State} (h : s.TrackerLegal) (t : Tag) (e : TrackerEntry)
    (hf : (s.track t).state = .forwarded)
   (he : e.Legal) (hst : e.state = .held) (hso : e.source = (s.track t).source)
   (hte : s'.track t = e) (htu : ∀ u, u ≠ t → s'.track u = s.track u) (hord : ∀ src, s'.order src = s.order src)
   (hw : s'.work = s.work)
   (hsl : (s'.tracker.sendList.map SendItem.entry).Nodup)
       (hm : ∀ u, u ≠ t → (u ∈ s'.tracker.sendList.map SendItem.entry ↔ u ∈ s.tracker.sendList.map SendItem.entry))
   (hnt : t ∉ s'.tracker.sendList.map SendItem.entry) : s'.TrackerLegal := by
  have hdd : s'.decidingEntry = s.decidingEntry := by unfold State.decidingEntry; rw [hw]
  have hlist : ∀ src, t ∈ s.order src ↔ (s'.track t).listed ∧ (s'.track t).source = src := by
    intro src; rw [(h.2.1 src).2, hte]; simp [TrackerEntry.listed, hf, hst, hso]
  refine trackerLegal_of_update h t e.source htu (by rwa [hte]) ?_ ?_ (fun src _ => hord src) ?_ ?_ ?_
      (fun src _ => hlist src) hsl hm ?_ ?_
  · rw [hdd, ← classifying_iff h.1, hte, hst, hf]; simp
  · intro u hu; rw [hdd]
  · rw [hord]; exact (h.2.1 _).1
  · intro u hu; rw [hord]
  · rw [hord]; exact hlist _
  · rw [hte, hst]; simpa using hnt
  · intro w h1 h2 h3
    rw [hw] at h1
    have := h.1.2.2 w h1 h2 h3
    have hc := (classifying_iff h.1 w.entry).mpr (decidingEntry_of_work h1 h2)
    have hne : w.entry ≠ t := by intro he'; rw [he', hf] at hc; cases hc
    rw [htu _ hne]; exact this

/-- A closing access leaves the Tracker and the Classifier as they are. -/
theorem closeLink_tracker_work (s : State) (l : Option CaptureLink) (c : Slot → Slot) : (s.closeLink l c).tracker =
    s.tracker ∧ (s.closeLink l c).work = s.work := by
  simp

/-- A change of an entry that keeps its state, source, sent and link keeps the Tracker legal. -/
theorem setTrack_keeps_trackerLegal {s : State} (h : s.TrackerLegal) (t : Tag) (e : TrackerEntry) (he : e.Legal)
    (hstate : e.state = (s.track t).state) (hsource : e.source = (s.track t).source)
        (hsent : e.sent = (s.track t).sent) (hl : e.link = (s.track t).link) : (s.setTrack t e).TrackerLegal := by
  refine trackerLegal_of_setTrack h t e he hstate hsource hsent ?_
  intro w h1 h2 h3
  have := h.1.2.2 w h1 h2 h3
  by_cases hu : w.entry = t
  · subst hu; simpa [hl] using this
  · simp [State.track_setTrack, Ne.symm hu, this]

/-- An ORPHANED entry that becomes FREE keeps the Tracker legal (R138). -/
theorem orphan_freed_keeps_trackerLegal {s : State} (h : s.TrackerLegal) (t : Tag)
    (hf : (s.track t).state = .orphaned) : (s.setTrack t ((s.track t).cleared .free)).TrackerLegal := by
  generalize hs' : s.setTrack t ((s.track t).cleared .free) = s'
  have hte : s'.track t = (s.track t).cleared .free := by rw [← hs']; simp
  have htu : ∀ u, u ≠ t → s'.track u = s.track u := by
    intro u hu; rw [← hs']; simp [State.track_setTrack, Ne.symm hu]
  have hdd : s'.decidingEntry = s.decidingEntry := by rw [← hs']; rfl
  have hord : ∀ src, s'.order src = s.order src := by intro src; rw [← hs']; rfl
  have hno : ∀ src, t ∉ s.order src := by
    intro src; rw [(h.2.1 src).2]; simp [TrackerEntry.listed, hf]
  have hns : t ∉ s.tracker.sendList.map SendItem.entry := by rw [h.2.2.2, hf]; simp
  refine trackerLegal_of_update h t 0 htu ?_ ?_ ?_ (fun src _ => hord src) ?_ ?_ ?_ ?_ ?_ ?_ ?_ ?_
  · rw [hte]; exact ⟨by simp [TrackerEntry.cleared], by simp [TrackerEntry.cleared], by simp [TrackerEntry.cleared],
        by simp [TrackerEntry.cleared], by simp [TrackerEntry.cleared]⟩
  · rw [hdd, ← classifying_iff h.1, hte, hf]; simp [TrackerEntry.cleared]
  · intro u hu; rw [hdd]
  · rw [hord]; exact (h.2.1 _).1
  · intro u hu; rw [hord]
  · rw [hord, hte]; simp [TrackerEntry.listed, TrackerEntry.cleared, hno]
  · intro src _; rw [hte]; simp [TrackerEntry.listed, TrackerEntry.cleared, hno]
  · rw [← hs']; exact h.2.2.1
  · intro u hu; rw [← hs']; rfl
  · rw [hte]; simp [TrackerEntry.cleared]; rw [← hs']; simpa using hns
  · intro w h1 h2 h3
    have hw : s.work = some w := by rw [← hs'] at h1; exact h1
    by_cases hu : w.entry = t
    · rw [hu, hte]; rfl
    · rw [htu _ hu]; exact h.1.2.2 w hw h2 h3

/-- A notice that raises a counter keeps the Tracker legal. -/
theorem count_keeps_trackerLegal {s : State} (k : Counter) (h : s.TrackerLegal) : (s.count k).TrackerLegal :=
    trackerLegal_of_eq rfl rfl h

/-- A notice that raises a counter and a cause keeps the Tracker legal. -/
theorem countAndRaise_keeps_trackerLegal {s : State} (k : Counter) (c : Cause) (h : s.TrackerLegal)
    : (s.countAndRaise k c).TrackerLegal := trackerLegal_of_eq rfl rfl h

/-- A notice that raises a cause keeps the Tracker legal. -/
theorem raise_keeps_trackerLegal {s : State} (c : Cause) (h : s.TrackerLegal) : (s.raise c).TrackerLegal :=
    trackerLegal_of_eq rfl rfl h

/-- A memory response taken as its entry stands keeps the Tracker legal (R134, R138, R139). -/
theorem takeResponse_keeps_trackerLegal (tag : Tag) (status : MemStatus) (beats : List Beat) {s : State}
    (hs : s.TrackerLegal) : (s.takeResponse tag status beats).TrackerLegal := by
  unfold State.takeResponse
  split
  · rename_i hf
    split
    · rename_i hsent
      have hc := closeLink_tracker_work s (s.track tag).link (closeByResponse (s.track tag).kind status
          (takenBeats (s.track tag).beats beats))
      have : (s.completeByResponse tag status beats).TrackerLegal := by
        unfold State.completeByResponse
        have hmain : ((s.closeLink (s.track tag).link (closeByResponse (s.track tag).kind status
            (takenBeats (s.track tag).beats beats))).setTrack tag { s.track tag with
              state := .held, link := none, slotServed := false, buffer := some
                  (bufferOf (s.track tag).kind status (takenBeats (s.track tag).beats beats)),
              timer := .unlimited }).TrackerLegal := by
          have hclo := trackerLegal_of_eq hc.1 hc.2 hs
          generalize hS : s.closeLink (s.track tag).link (closeByResponse (s.track tag).kind status
              (takenBeats (s.track tag).beats beats)) = S at *
          have hST : ∀ u, S.track u = s.track u := by intro u; simp [State.track, hc.1]
          have horph : (s.track tag).orphan = false := by
            rw [← Bool.not_eq_true]; intro hx; rw [(hs.1.1 tag).2.2.1 hx] at hf; cases hf
          refine trackerLegal_of_held hclo tag { s.track tag with
              state := .held, link := none, slotServed := false, buffer := some
                  (bufferOf (s.track tag).kind status (takenBeats (s.track tag).beats beats)),
              timer := .unlimited } (by rw [hST]; exact hf) ?_ rfl (by rw [hST]) (by simp) ?_ (fun _ => rfl) rfl ?_
                  (fun _ _ => Iff.rfl) ?_
          · exact ⟨by simp, by simp, by simp, by simp, by simp⟩
          · intro u hu; simp [State.track_setTrack, Ne.symm hu]
          · exact hclo.2.2.1
          · show tag ∉ S.tracker.sendList.map SendItem.entry
            rw [hclo.2.2.2, hST, hsent]; simp
        unfold State.noticeFault
        split
        · exact hmain
        · exact countAndRaise_keeps_trackerLegal _ _ hmain
      exact this
    · exact count_keeps_trackerLegal _ hs
  · rename_i hf
    split
    · apply count_keeps_trackerLegal
      refine setTrack_keeps_trackerLegal hs tag _ ?_ rfl rfl rfl rfl
      obtain ⟨h1, h2, h3, h4, h5⟩ := hs.1.1 tag
      exact ⟨h1, h2, by simp, h4, h5⟩
    · exact count_keeps_trackerLegal _ hs
  · rename_i hf; exact count_keeps_trackerLegal _ (orphan_freed_keeps_trackerLegal hs tag hf)
  all_goals exact count_keeps_trackerLegal _ hs

/-- The expiry of a FORWARDED entry keeps the Tracker legal (R135). -/
theorem expireResponse_keeps_trackerLegal (tag : Tag) (s : State) (hs : s.TrackerLegal)
    (hf : (s.track tag).state = .forwarded) : (s.expireResponse tag).TrackerLegal := by
  unfold State.expireResponse
  apply countAndRaise_keeps_trackerLegal
  have hc := closeLink_tracker_work s (s.track tag).link (fun sl => { sl with outcome := .memFault })
  have hclo := trackerLegal_of_eq hc.1 hc.2 hs
  generalize hS : s.closeLink (s.track tag).link (fun sl => { sl with outcome := .memFault }) = S at *
  have hST : ∀ u, S.track u = s.track u := by intro u; simp [State.track, hc.1]
  have hserv : (s.track tag).slotServed = false := by
    rw [← Bool.not_eq_true]; intro hx; rw [(hs.1.1 tag).2.1 hx] at hf; cases hf
  have hsl : S.tracker.sendList = s.tracker.sendList := by rw [hc.1]
  refine trackerLegal_of_held hclo tag
      { s.track tag with
        state := .held, link := none, orphan := (s.track tag).sent, buffer := some
            { status := .noAnswer, beats := [] }
        timer := .unlimited } (by rw [hST]; exact hf) ?_ rfl (by rw [hST]) (by simp) ?_ (fun _ => rfl) rfl ?_ ?_ ?_
  · exact ⟨by simp, by simp, by simp, by simp, by simp⟩
  · intro u hu; simp [State.track_setTrack, Ne.symm hu]
  · simp only [State.setSendList]
    split
    · exact hs.2.2.1
    · exact (List.Nodup.sublist (List.Sublist.map _ List.filter_sublist) hs.2.2.1)
  · intro u hu
    simp only [State.setSendList, hsl]
    split
    · rfl
    · simp only [List.mem_map, List.mem_filter]
      constructor
      · rintro ⟨a, ⟨h1, _⟩, h2⟩; exact ⟨a, h1, h2⟩
      · rintro ⟨a, h1, h2⟩; exact ⟨a, ⟨h1, by simp [h2, hu]⟩, h2⟩
  · simp only [State.setSendList]
    split
    · rename_i hsent; rw [hs.2.2.2, hsent]; simp
    · simp [List.mem_map, List.mem_filter]

/-- Taking an entry's expiry where it is due keeps the Tracker legal (R135). -/
theorem settleResponse_keeps_trackerLegal (tag : Tag) {s : State} (hs : s.TrackerLegal) :
    (s.settleResponse tag).TrackerLegal := by
  unfold State.settleResponse
  split
  · rename_i h; exact expireResponse_keeps_trackerLegal tag s hs h.1
  · exact hs

/-- Taking every expiry that is due keeps the Tracker legal (R135, R107). -/
theorem settleTimers_keeps_trackerLegal {s : State} (hs : s.TrackerLegal) : s.settleTimers.TrackerLegal := by
  have hf : ∀ (tags : List Tag) (x : State), x.TrackerLegal → (tags.foldl State.settleResponse x).TrackerLegal := by
    intro tags
    induction tags with
    | nil => exact fun _ hx => hx
    | cons u rest ih => exact fun x hx => ih _ (settleResponse_keeps_trackerLegal u hx)
  exact settleStall_keeps_trackerLegal (hf _ s hs)

/-- A memory response keeps the Tracker legal (R134, R138, R139, R167). -/
theorem memoryResponse_keeps_trackerLegal (tag : Tag) (status : MemStatus) (beats : List Beat) (s t : State)
    (hs : s.TrackerLegal) (h : execMemoryResponse tag status beats s = .next t) : t.TrackerLegal := by
  replace h := Host.Outcome.next.inj h; subst h
  split
  · exact hs
  · exact takeResponse_keeps_trackerLegal tag status beats (settleResponse_keeps_trackerLegal tag hs)

/-- The drain check keeps the Tracker legal (R34). -/
theorem slotServedLeft_keeps_trackerLegal (x : State) (b : Bool) (h : x.TrackerLegal)
    : (x.slotServedLeft b).TrackerLegal := by
  unfold State.slotServedLeft State.completeDrain
  split
  · split
    · exact trackerLegal_of_eq rfl rfl h
    · exact h
  · exact h

/-- The release of a ready entry keeps the Tracker legal (R137). -/
theorem release_keeps_trackerLegal (s : State) (hs : s.TrackerLegal) (src : SourceId) (t : Tag) (rest : List Tag)
    (ho : s.order src = t :: rest) (hh : (s.track t).state = .held) : (s.release src t).TrackerLegal := by
  have hsrc : (s.track t).source = src := ((hs.2.1 src).2 t |>.mp (by simp [ho])).2
  have hn := (hs.2.1 src).1; rw [ho, List.nodup_cons] at hn
  have hbase : ∀ s' : State, s'.tracker.entries =
      (s.setTrack t ((s.track t).cleared (if (s.track t).orphan then .orphaned else .free))).tracker.entries →
      s'.tracker.orders = (s.setOrder src rest).tracker.orders → s'.tracker.sendList = s.tracker.sendList → s'.work =
      s.work → s'.TrackerLegal := by
    intro s' he hor hsl hw
    have hte : s'.track t = (s.track t).cleared (if (s.track t).orphan then .orphaned else .free) := by
      have : s'.track t = (s.setTrack t ((s.track t).cleared (if (s.track t).orphan then .orphaned else
          .free))).track t := by show s'.tracker.entries[_] = _; rw [he]; rfl
      rw [this]; simp
    have htu : ∀ u, u ≠ t → s'.track u = s.track u := by
      intro u hu
      have : s'.track u = (s.setTrack t ((s.track t).cleared (if (s.track t).orphan then .orphaned else
          .free))).track u := by show s'.tracker.entries[_] = _; rw [he]; rfl
      rw [this]; simp [State.track_setTrack, Ne.symm hu]
    have hord : ∀ v, s'.order v = if src = v then rest else s.order v := by
      intro v
      have : s'.order v = (s.setOrder src rest).order v := by unfold State.order; rw [hor]
      rw [this, State.order_setOrder]
    have hdd : s'.decidingEntry = s.decidingEntry := by unfold State.decidingEntry; rw [hw]
    have hst : (s'.track t).state = .orphaned ∨ (s'.track t).state = .free := by
      rw [hte]; unfold TrackerEntry.cleared; cases (s.track t).orphan <;> simp
    have hnl : ¬ (s'.track t).listed := by unfold TrackerEntry.listed; rcases hst with h | h <;> rw [h] <;> simp
    refine trackerLegal_of_update hs t src htu ?_ ?_ ?_ ?_ ?_ ?_ ?_ ?_ ?_ ?_ ?_ ?_
    · rw [hte] at hst ⊢
      refine ⟨by simp [TrackerEntry.cleared], by simp [TrackerEntry.cleared], by simp [TrackerEntry.cleared], ?_, by
          simp [TrackerEntry.cleared]⟩
      rcases hst with h | h <;> rw [h] <;> simp [TrackerEntry.cleared]
    · rw [hdd, ← classifying_iff hs.1, hh]; rcases hst with h | h <;> rw [h] <;> simp
    · intro u hu; rw [hdd]
    · intro v hv; rw [hord, if_neg (Ne.symm hv)]
    · rw [hord, if_pos rfl]; exact hn.2
    · intro u hu; rw [hord, if_pos rfl, ho]; simp [hu]
    · rw [hord, if_pos rfl]; simp [hnl, hn.1]
    · intro v hv; simp [hnl]; rw [(hs.2.1 v).2, hsrc]; intro h; exact hv h.2.symm
    · rw [hsl]; exact hs.2.2.1
    · intro u hu; rw [hsl]
    · rw [hsl, hs.2.2.2, hh]; rcases hst with h | h <;> rw [h] <;> simp
    · intro w h1 h2 h3
      rw [hw] at h1
      by_cases hu : w.entry = t
      · rw [hu, hte]; rfl
      · rw [htu _ hu]; exact hs.1.2.2 w h1 h2 h3
  unfold State.release
  apply slotServedLeft_keeps_trackerLegal
  refine hbase _ rfl ?_ rfl rfl
  simp [ho, State.setOrder, State.setTrack]

/-- A grant keeps the Tracker legal (R137). -/
theorem arbiterGrant_keeps_trackerLegal (s t : State) (hs : s.TrackerLegal) (h : execArbiterGrant s = .next t)
    : t.TrackerLegal := by
  unfold execArbiterGrant at h
  injection h with h
  subst h
  split
  · exact hs
  · split
    · exact hs
    · rename_i src hgr _ t hr
      unfold State.readyHead at hr
      split at hr
      · cases hr
      · rename_i u rest ho
        split at hr
        · injection hr with hr; subst hr; exact release_keeps_trackerLegal s hs src _ rest ho (by assumption)
        · cases hr

/-- A Tracker whose entries are FREE and cleared, with empty lists and no request under classification, is legal. -/
theorem trackerLegal_of_cleared (s : State) (hk : ∀ t, (s.track t) = (s.track t).cleared .free)
    (ho : ∀ src, s.order src = []) (hl : s.tracker.sendList = []) (hw : s.work = none) : s.TrackerLegal := by
  have hst : ∀ t, (s.track t).state = .free := by intro t; rw [hk]; rfl
  refine ⟨⟨fun t => ?_, fun t => ?_, fun w h => ?_⟩, fun src => ⟨?_, fun t => ?_⟩, ?_, fun t => ?_⟩
  · rw [hk]; exact ⟨by simp [TrackerEntry.cleared], by simp [TrackerEntry.cleared], by simp [TrackerEntry.cleared],
        by simp [TrackerEntry.cleared], by simp [TrackerEntry.cleared]⟩
  · rw [hst, hw]; simp
  · rw [hw] at h; cases h
  · rw [ho]; exact List.nodup_nil
  · rw [ho]; simp [TrackerEntry.listed, hst]
  · rw [hl]; exact List.nodup_nil
  · rw [hl, hst]; simp

/-- SRST leaves the Tracker legal (R143). -/
theorem srst_makes_trackerLegal (s t : State) (h : execSrst s = .next t) : t.TrackerLegal := by
  have hw : t.work = none := by
    replace h := Host.Outcome.next.inj h; subst h
    simp
  have htr : t.tracker = s.settleTimers.tracker.srst := by
    replace h := Host.Outcome.next.inj h; subst h
    simp [State.resetPath]
  refine trackerLegal_of_cleared t ?_ ?_ ?_ hw
  · intro u; unfold State.track; rw [htr]; simp [Tracker.srst, TrackerEntry.cleared]
  · intro u; unfold State.order; rw [htr]; simp [Tracker.srst]
  · rw [htr]; rfl

/-- A tick keeps the Tracker legal (R167). -/
theorem tick_keeps_trackerLegal (s : State) (hs : s.TrackerLegal) : s.tick.TrackerLegal := by
  have ht : ∀ t, s.tick.track t = (s.track t).tick := by intro t; simp [State.track, State.tick]
  have hst : ∀ e : TrackerEntry, e.tick.state = e.state ∧ e.tick.source = e.source ∧ e.tick.sent = e.sent ∧
      e.tick.link = e.link ∧ e.tick.slotServed = e.slotServed ∧ e.tick.orphan = e.orphan ∧ e.tick.buffer =
      e.buffer := by
    intro e; unfold TrackerEntry.tick; split <;> simp
  have hwk : ∀ w, s.tick.work = some w → ∃ v, s.work = some v ∧ w.entry = v.entry ∧ w.stage.deciding =
      v.stage.deciding ∧ w.stage.recorded = v.stage.recorded := by
    intro w h
    simp only [State.tick, Option.map_eq_some_iff] at h
    obtain ⟨v, hv, rfl⟩ := h
    refine ⟨v, hv, rfl, ?_, ?_⟩ <;> (simp only; cases v.stage <;> rfl)
  refine ⟨⟨fun t => ?_, fun t => ?_, fun w h1 h2 h3 => ?_⟩, fun src => ⟨?_, fun t => ?_⟩, ?_, fun t => ?_⟩
  · rw [ht]; obtain ⟨a, b, c, d, e, f, g⟩ := hst (s.track t)
    obtain ⟨h1, h2, h3, h4, h5⟩ := hs.1.1 t
    refine ⟨by rw [a, d]; exact h1, by rw [a, e]; exact h2, by rw [a, f]; exact h3, by rw [a, g]; exact h4, ?_⟩
    rw [a]; unfold TrackerEntry.tick; split
    · intro _; assumption
    all_goals exact h5
  · rw [ht, (hst _).1, hs.1.2.1 t]
    constructor
    · rintro ⟨w, h1, h2, h3⟩
      refine ⟨{ w with stage := w.stage.tick }, by simp [State.tick, h1], h2, ?_⟩
      rw [← h3]; simp only; cases w.stage <;> rfl
    · rintro ⟨w, h1, h2, h3⟩
      obtain ⟨v, a, b, c, d⟩ := hwk w h1
      exact ⟨v, a, by rw [← b]; exact h2, by rw [← c]; exact h3⟩
  · obtain ⟨v, a, b, c, d⟩ := hwk w h1
    rw [ht, (hst _).2.2.2.1, b]; exact hs.1.2.2 v a (by rw [← c]; exact h2) (by rw [← d]; exact h3)
  · exact (hs.2.1 src).1
  · have hz : s.tick.order src = s.order src := rfl
    have h9 := (hs.2.1 src).2 t
    obtain ⟨a, b, c, _⟩ := hst (s.track t)
    unfold TrackerEntry.listed at *
    rw [hz, ht, a, b]
    exact h9
  · have hz : s.tick.tracker.sendList = s.tracker.sendList := by unfold State.tick; rfl
    rw [hz]; exact hs.2.2.1
  · have hz : s.tick.tracker.sendList = s.tracker.sendList := by unfold State.tick; rfl
    have h9 := hs.2.2.2 t
    obtain ⟨a, b, c, _⟩ := hst (s.track t)
    rw [hz, ht, a, c]
    exact h9

/-- The making of a record and its link keep the Tracker legal (R60, R85). -/
theorem record_keeps_trackerLegal {s s' : State} (h : s.TrackerLegal) {w : Work} (hw : s.work = some w)
    (hd : w.stage.deciding = true) (l : CaptureLink) (st : Stage) (hst : st.deciding = true)
    (hsr : st.recorded = true)
   (ht : s'.tracker = (s.placeLink w.entry l).tracker) (hw' : s'.work = some { w with stage := st })
       : s'.TrackerLegal := by
  have hde := decidingEntry_of_work hw hd
  obtain ⟨f1, f2, f3, f4, f5, f6, f7⟩ := deciding_facts h hde
  have hk : ∀ u, s'.track u = (s.placeLink w.entry l).track u := by intro u; unfold State.track; rw [ht]
  have hte : s'.track w.entry = { s.track w.entry with link := some l } := by rw [hk]; simp [State.placeLink]
  have htu : ∀ u, u ≠ w.entry → s'.track u = s.track u := by
    intro u hu; rw [hk]; simp [State.placeLink, State.track_setTrack, Ne.symm hu]
  have hord : ∀ src, s'.order src = s.order src := by intro src; unfold State.order; rw [ht]; rfl
  have hsl : s'.tracker.sendList = s.tracker.sendList := by rw [ht]; rfl
  have hdd : s'.decidingEntry = some w.entry := by unfold State.decidingEntry; rw [hw']; simp [hst]
  refine trackerLegal_of_update h w.entry (s.track w.entry).source htu ?_ ?_ ?_ (fun src _ => hord src) ?_ ?_ ?_ ?_
      ?_ ?_ ?_ ?_
  · rw [hte]; obtain ⟨a, b, c, d, e⟩ := h.1.1 w.entry; exact ⟨fun _ => .inl f1, b, c, d, e⟩
  · rw [hte, hdd]; simp [f1]
  · intro u hu; rw [hdd, hde]
  · rw [hord]; exact (h.2.1 _).1
  · intro u hu; rw [hord]
  · rw [hord, hte]; simp [TrackerEntry.listed, f1, f6]
  · intro src _; rw [hte]; simp [TrackerEntry.listed, f1, f6]
  · rw [hsl]; exact h.2.2.1
  · intro u hu; rw [hsl]
  · rw [hsl, hte]; simp [f1]; simpa using f7
  · intro v h1 h2 h3; rw [hw'] at h1; injection h1 with h1; subst h1; simp [hsr] at h3

end Sys2Proof.Machine
end

