-- ==== Sys2Proof/Laws/Wire.lean ====
section
/-! SUPPORT. Spec lemmas of the wire form: bytes through their bits, and whole frames through the checks. -/

namespace Sys2Proof

/-- A byte is read back from its bits (R145). -/
theorem byteOfBits_bits (b : Byte) :
    byteOfBits (b.getLsbD 7) (b.getLsbD 6) (b.getLsbD 5) (b.getLsbD 4) (b.getLsbD 3) (b.getLsbD 2) (b.getLsbD 1)
      (b.getLsbD 0) = b := by
  revert b
  decide

/-- Bytes are read back from their bits (R145). -/
theorem bytesOfBits_flatMap (bytes : List Byte) : bytesOfBits (bytes.flatMap bitsOfByte) = bytes := by
  induction bytes with
  | nil => rfl
  | cons b rest ih =>
    simp only [List.flatMap_cons, bitsOfByte, List.cons_append, List.nil_append, bytesOfBits, ih, byteOfBits_bits]

theorem length_flatMap_bitsOfByte (bytes : List Byte) : (bytes.flatMap bitsOfByte).length = 8 * bytes.length := by
  induction bytes with
  | nil => rfl
  | cons b rest ih =>
    simp only [List.flatMap_cons, List.length_append, ih, bitsOfByte, List.length_cons, List.length_nil]
    omega

/-- A period that carries a whole frame, and whatever bits after it, is taken as that frame (R145). -/
theorem taken_of_frame (frame : List Byte) (extra : List Bool) (h : frame.length = 94) :
    (Period.mk (frame.flatMap bitsOfByte ++ extra)).taken = frameTaken frame := by
  unfold Period.taken
  have hbits : (frame.flatMap bitsOfByte).length = Config.frameBits := by
    rw [length_flatMap_bitsOfByte, h]
  rw [if_neg (by simp [hbits]), ← hbits, List.take_left', bytesOfBits_flatMap]
  rfl

/-- The period of a whole frame is taken as that frame (R145). -/
theorem taken_ofBytes (frame : List Byte) (h : frame.length = 94) : (Period.ofBytes frame).taken = frameTaken frame := by
  have := taken_of_frame frame [] h
  rwa [List.append_nil] at this

end Sys2Proof
end

