-- ==== Sys2Proof/Laws/Work.lean ====
section
/-! SUPPORT. What a command can do to the request under classification. -/

namespace Sys2Proof.Machine

/-- What a command can do to the request under classification: end the work, keep the request, or take an acceptable
    one (R23, R128). -/
def WorkStep (s t : State) : Prop := t.work = none ∨ (∃ w w', s.work = some w ∧ t.work = some w' ∧ w'.request =
    w.request) ∨ (∃ w', t.work = some w' ∧ acceptable w'.request = true)

theorem workStep_of_eq {s t : State} (h : t.work = s.work) : WorkStep s t := by
  cases hw : s.work with
  | none => left; rw [h, hw]
  | some w => right; left; exact ⟨w, w, hw, by rw [h, hw], rfl⟩

/-- The request under classification stays acceptable. -/
theorem acceptable_of_workStep {s t : State} (h : WorkStep s t) (hw : ∀ w, s.work = some w → acceptable w.request =
    true) : ∀ w, t.work = some w → acceptable w.request = true := by
  intro w hx
  rcases h with h | ⟨a, b, h1, h2, h3⟩ | ⟨b, h2, h3⟩
  · rw [h] at hx; cases hx
  · rw [h2] at hx; injection hx with hx; subst hx; rw [h3]; exact hw _ h1
  · rw [h2] at hx; injection hx with hx; subst hx; exact h3

theorem workStep_afterStop {s : State} {w : Work} (hs : s.work = some w) (x : State) (g : Governor) (w' : Work)
    (hr : w'.request = w.request) : WorkStep s (x.afterStop w' g) := by
  unfold State.afterStop; split
  · right; left; exact ⟨w, _, hs, rfl, hr⟩
  · left; rfl

theorem workStep_afterAction {s : State} {w : Work} (hs : s.work = some w) (x : State) (g : Governor) (w' : Work)
    (hr : w'.request = w.request) : WorkStep s (x.afterAction w' g) := by
  unfold State.afterAction; split
  · right; left; exact ⟨w, _, hs, rfl, hr⟩
  · exact workStep_afterStop hs x g w' hr

theorem workStep_of_stage {s : State} {w : Work} (hs : s.work = some w) {t : State} (w' : Work)
    (h : t.work = some w') (hr : w'.request = w.request) : WorkStep s t := by
  right; left; exact ⟨w, _, hs, h, hr⟩

/-- A stall is of the request under classification. -/
theorem work_of_stall {s : State} {w g n tm} (h : s.stall = some (w, g, n, tm)) : s.work = some w := by
  unfold State.stall at h
  split at h
  · cases h
  · split at h
    · injection h with h; injection h with h; subst h; assumption
    all_goals cases h

theorem workStep_serveStalled {s : State} {w : Work} (hs : s.work = some w) (x : State) (g : Governor) (n : SlotId)
    (timer : LimitTimer) : WorkStep s (x.serveStalled w g n timer) := by
  unfold State.serveStalled; split
  · exact workStep_afterAction hs _ g w rfl
  · exact workStep_afterAction hs _ g w rfl

theorem settleStall_workStep (s : State) : WorkStep s s.settleStall := by
  unfold State.settleStall; split
  · rename_i hst; exact workStep_afterAction (work_of_stall hst) _ _ _ rfl
  all_goals exact workStep_of_eq rfl

/-- A change within the stage keeps the request (R23). -/
theorem workStep_of_map {s t : State} {f : Stage → Stage}
    (h : t.work = s.work.map fun w => { w with stage := f w.stage }) : WorkStep s t := by
  cases hw : s.work with
  | none => exact .inl (by rw [h, hw]; rfl)
  | some w => exact workStep_of_stage hw { w with stage := f w.stage } (by rw [h, hw]; rfl) rfl

theorem WorkStep.trans_map {s t u : State} {f : Stage → Stage} (h : WorkStep s t)
    (hu : u.work = t.work.map fun w => { w with stage := f w.stage }) : WorkStep s u := by
  rcases h with h | ⟨w, w', h1, h2, h3⟩ | ⟨w', h2, h3⟩
  · exact .inl (by rw [hu, h]; rfl)
  · exact .inr (.inl ⟨w, { w' with stage := f w'.stage }, h1, by rw [hu, h2]; rfl, h3⟩)
  · exact .inr (.inr ⟨{ w' with stage := f w'.stage }, by rw [hu, h2]; rfl, h3⟩)

theorem settleTimers_workStep (s : State) : WorkStep s s.settleTimers := by
  have := settleStall_workStep ((List.finRange 16).foldl State.settleResponse s)
  have hw : ((List.finRange 16).foldl State.settleResponse s).work = s.work := by rw [State.foldl_settleResponse_frame]
  unfold WorkStep at *
  rw [hw] at this
  exact this

theorem linkExecute_workStep (run : State → State × Answer) (code seq : Byte) (s : State) (h : WorkStep s (run s).1)
    : WorkStep s (linkExecute code seq run s) := by
  rcases linkExecute_cases code seq run s with e | e | e <;> rw [e]
  · exact workStep_of_eq rfl
  · refine workStep_of_eq ?_; unfold State.replay; split <;> rfl
  · exact h

theorem setMode_workStep (m : Byte) (s : State) : WorkStep s (setMode m s).1 := by
  have key : ∀ m, WorkStep s (s.setMode m).endStallByMode := by
    intro m
    unfold State.endStallByMode
    split
    · exact workStep_of_eq rfl
    · rename_i w g n tm h
      split
      · exact workStep_afterAction (work_of_stall h) _ _ _ rfl
      · exact workStep_afterStop (work_of_stall h) _ _ _ rfl
  unfold setMode modeBypass modeActive
  repeat' split
  all_goals first | exact workStep_of_eq rfl | exact key _

theorem releaseSlot_workStep (n : SlotId) (s : State) : WorkStep s (releaseSlot n s).1 := by
  unfold releaseSlot
  split
  · exact workStep_of_eq rfl
  · dsimp only; split
    · exact workStep_of_eq rfl
    · rename_i w g m tm h
      split
      · exact workStep_serveStalled (work_of_stall (s := s) h) _ _ _ _
      · exact workStep_of_eq rfl

theorem switchBank_workStep (a b : Byte) (s : State) : WorkStep s (switchBank a b s).1 := by
  unfold switchBank
  split
  · split
    · unfold setBank
      split
      · exact workStep_of_eq rfl
      · dsimp only
        unfold State.rederiveGroup
        split
        · exact workStep_of_eq rfl
        · rename_i w g m tm h
          have hw : s.work = some w := work_of_stall h
          split
          · unfold State.rederive; split
            · exact workStep_serveStalled hw _ _ _ _
            · exact workStep_of_stage hw _ rfl rfl
          · exact workStep_of_eq rfl
    · exact workStep_of_eq rfl
  · exact workStep_of_eq rfl

/-- What every command does to the request under classification. -/
theorem exec_workStep (c : Instr) (s t : State) (h : exec c s = .next t) : WorkStep s t := by
  cases c with
  | porst =>
    injection h with h; subst h
    left; rfl
  | porstRelease low => have e := execPorstRelease_frame low h; exact workStep_of_eq (by rw [e])
  | srst =>
    replace h := Host.Outcome.next.inj h; subst h
    left
    simp only [State.completeDrain_work, State.resetPath_work, State.discardWork_work]
  | srstRelease => have e := execSrstRelease_frame h; exact workStep_of_eq (by rw [e])
  | requestAccept request =>
    injection h with h; subst h
    split
    · split
      · exact workStep_of_eq rfl
      · split
        · rename_i hacc; right; right; exact ⟨_, rfl, hacc⟩
        · exact workStep_of_eq rfl
    · exact workStep_of_eq rfl
  | classify =>
    injection h with h; subst h
    split
    · rename_i hw
      repeat' split
      all_goals first
        | exact .inl rfl
        | exact workStep_of_stage hw _ rfl rfl
    all_goals exact workStep_of_eq rfl
  | startTrigger =>
    injection h with h; subst h
    split
    · rename_i hw
      dsimp only
      repeat' split
      all_goals first
        | exact workStep_of_stage hw _ rfl rfl
        | (unfold State.takeStart; split <;> exact workStep_of_stage hw _ rfl rfl)
    all_goals exact workStep_of_eq rfl
  | watchAction =>
    injection h with h; subst h
    split
    · rename_i hw
      repeat' split
      all_goals first
        | exact workStep_of_eq rfl
        | exact workStep_afterAction hw _ _ _ rfl
    all_goals exact workStep_of_eq rfl
  | captureSlotAction =>
    injection h with h; subst h
    split
    · rename_i hw
      dsimp only
      repeat' split
      all_goals first
        | exact workStep_of_eq rfl
        | exact workStep_afterAction hw _ _ _ rfl
        | (unfold State.captureToSlot; dsimp only; repeat' split
           all_goals first | exact workStep_afterAction hw _ _ _ rfl | exact workStep_of_stage hw _ rfl rfl)
    all_goals exact workStep_of_eq rfl
  | captureQueueAction =>
    injection h with h; subst h
    split
    · rename_i hw
      dsimp only
      repeat' split
      all_goals first
        | exact workStep_of_eq rfl
        | exact workStep_afterAction hw _ _ _ rfl
        | (unfold State.captureToQueue State.offerToQueue State.dropCapture State.forwardAndGoOn; repeat' split
           all_goals first | exact workStep_afterAction hw _ _ _ rfl | exact workStep_of_stage hw _ rfl rfl)
    all_goals exact workStep_of_eq rfl
  | overlayAction =>
    injection h with h; subst h
    split
    · rename_i hw
      dsimp only
      repeat' split
      all_goals first
        | exact workStep_of_eq rfl
        | exact workStep_afterAction hw _ _ _ rfl
        | (unfold State.overlay State.fallBack; repeat' split
           all_goals first | exact workStep_afterAction hw _ _ _ rfl | exact workStep_of_stage hw _ rfl rfl)
    all_goals exact workStep_of_eq rfl
  | historyAppend =>
    injection h with h; subst h
    split
    · rename_i hw
      exact workStep_of_stage hw _ rfl rfl
    all_goals exact workStep_of_eq rfl
  | recordNotice =>
    injection h with h; subst h
    split
    · rename_i hw
      exact workStep_afterAction hw _ _ _ rfl
    all_goals exact workStep_of_eq rfl
  | stopTrigger =>
    injection h with h; subst h
    split
    · rename_i hw
      dsimp only
      repeat' split
      all_goals first
        | exact workStep_afterStop hw _ _ _ rfl
        | (refine (?_ : WorkStep _ (State.takeStop _)); unfold State.takeStop State.freeze; repeat' split
           all_goals exact workStep_afterStop hw _ _ _ rfl)
    all_goals exact workStep_of_eq rfl
  | oneShotRetire =>
    injection h with h; subst h
    split
    · rename_i hw
      exact .inl rfl
    all_goals exact workStep_of_eq rfl
  | mportSend => have e := execMportSend_frame h; exact workStep_of_eq (by rw [e])
  | memoryResponse tag status beats =>
      have e := execMemoryResponse_frame tag status beats h; exact workStep_of_eq (by rw [e])
  | tick =>
    replace h := Host.Outcome.next.inj h; subst h
    repeat' split
    · exact workStep_of_eq rfl
    · exact workStep_of_eq rfl
    · exact (settleTimers_workStep s).trans_map (f := Stage.tick) (State.tick_work _)
  | responseLimitExpiry entry => have e := execResponseLimitExpiry_frame entry h; exact workStep_of_eq (by rw [e])
  | stallLimitExpiry =>
    replace h := Host.Outcome.next.inj h; subst h
    exact settleStall_workStep s
  | arbiterGrant => have e := execArbiterGrant_frame h; exact workStep_of_eq (by rw [e])
  | linkFault period => have e := execLinkFault_frame period h; exact workStep_of_eq (by rw [e])
  | resync => have e := execResync_frame h; exact workStep_of_eq (by rw [e])
  | duplicate code seq => have e := execDuplicate_frame code seq h; exact workStep_of_eq (by rw [e])
  | unknownCommand code seq => have e := execUnknownCommand_frame code seq h; exact workStep_of_eq (by rw [e])
  | nop seq => have e := execNop_frame seq h; exact workStep_of_eq (by rw [e])
  | getStatus seq => have e := execGetStatus_frame seq h; exact workStep_of_eq (by rw [e])
  | clearUnit seq => have e := execClearUnit_frame seq h; exact workStep_of_eq (by rw [e])
  | writeEntry seq index image => have e := execWriteEntry_frame seq index image h; exact workStep_of_eq (by rw [e])
  | readEntry seq index => have e := execReadEntry_frame seq index h; exact workStep_of_eq (by rw [e])
  | enableEntry seq index =>
    replace h := Host.Outcome.next.inj h; subst h
    refine linkExecute_workStep _ _ _ _ ?_
    rcases withEntry_cases index enableEntry s with e | ⟨i, _, e⟩ <;> rw [e]
    · exact workStep_of_eq rfl
    · unfold enableEntry; repeat' split
      · exact workStep_of_eq rfl
      · exact workStep_of_eq rfl
      · exact workStep_of_map (f := Stage.mapGovernor _) rfl
  | disableEntry seq index => have e := execDisableEntry_frame seq index h; exact workStep_of_eq (by rw [e])
  | clearEntryCounts seq index => have e := execClearEntryCounts_frame seq index h; exact workStep_of_eq (by rw [e])
  | setMode seq mode =>
    injection h with h; subst h
    exact linkExecute_workStep _ _ _ _ (setMode_workStep _ s)
  | takeSlot seq slot => have e := execTakeSlot_frame seq slot h; exact workStep_of_eq (by rw [e])
  | releaseSlot seq slot =>
    injection h with h; subst h
    refine linkExecute_workStep _ _ _ _ ?_

    rcases withSlot_cases slot releaseSlot s with e | ⟨n, hn, e⟩ <;> rw [e]
    · exact workStep_of_eq rfl
    · exact releaseSlot_workStep n s
  | writeSlot seq slot offset length data =>
      have e := execWriteSlot_frame seq slot offset length data h; exact workStep_of_eq (by rw [e])
  | readSlot seq slot => have e := execReadSlot_frame seq slot h; exact workStep_of_eq (by rw [e])
  | ackSlot seq slot sequence => have e := execAckSlot_frame seq slot sequence h; exact workStep_of_eq (by rw [e])
  | readHistory seq => have e := execReadHistory_frame seq h; exact workStep_of_eq (by rw [e])
  | configQueue seq first count mode watermark =>
      have e := execConfigQueue_frame seq first count mode watermark h; exact workStep_of_eq (by rw [e])
  | popQueue seq => have e := execPopQueue_frame seq h; exact workStep_of_eq (by rw [e])
  | switchBank seq group bank =>
    injection h with h; subst h
    exact linkExecute_workStep _ _ _ _ (switchBank_workStep _ _ s)
  | sessionArm seq count =>
    replace h := Host.Outcome.next.inj h; subst h
    refine linkExecute_workStep _ _ _ _ ?_
    unfold sessionArm; split <;> first | exact workStep_of_eq rfl | exact workStep_of_map (f := Stage.ignoreStop) rfl
  | sessionRun seq count =>
    replace h := Host.Outcome.next.inj h; subst h
    refine linkExecute_workStep _ _ _ _ ?_
    unfold sessionRun; split <;> first | exact workStep_of_eq rfl | exact workStep_of_map (f := Stage.ignoreStop) rfl
  | sessionHalt seq => have e := execSessionHalt_frame seq h; exact workStep_of_eq (by rw [e])
  | sessionClear seq => have e := execSessionClear_frame seq h; exact workStep_of_eq (by rw [e])
  | setLimits seq response stall =>
      have e := execSetLimits_frame seq response stall h; exact workStep_of_eq (by rw [e])
  | setTimebase seq prescaler load value =>
      have e := execSetTimebase_frame seq prescaler load value h; exact workStep_of_eq (by rw [e])
  | readCounters seq => have e := execReadCounters_frame seq h; exact workStep_of_eq (by rw [e])
  | clearCounters seq set => have e := execClearCounters_frame seq set h; exact workStep_of_eq (by rw [e])
  | setAlertEnable seq set => have e := execSetAlertEnable_frame seq set h; exact workStep_of_eq (by rw [e])
  | ackAlert seq set => have e := execAckAlert_frame seq set h; exact workStep_of_eq (by rw [e])

end Sys2Proof.Machine
end

