-- ==== Sys2Proof/Tests/Slice0.lean ====
section
/-! SUPPORT. Tests of this model: well-formedness, the wire form, one step of each command, and for each statement a concrete
state and operands that meet its hypotheses. -/

namespace Sys2Proof.Machine.Tests

set_option Elab.async false
set_option maxRecDepth 100000

open Sys2Proof Sys2Proof.Machine

/-! ### Small states -/

/-- A read of two beats at beat 6 of the line at 40h, from source 5: it ends with the line. -/
def readReq : Request := { kind := .read, address := 0x70#40, beats := 2, write := [], source := 5 }

/-- A write of one beat at 48h, from source 5, that enables bytes 0 and 7. -/
def writeReq : Request :=
  { kind := .write, address := 0x48#40, beats := 1, write := [{ enables := 0x81#8, data := 0x1122334455667788#64 }]
    source := 5 }

/-- A read whose address is not a multiple of 8. -/
def badReq : Request := { kind := .read, address := 0x44#40, beats := 1, write := [], source := 5 }

/-- An image that matches every request of both kinds, WATCH. -/
def anyImage : EntryImage := { imageZero with access := 0x02 }

/-- The governing entry 3 with the given fields, as its lookup leaves it. -/
def gov (m : EntryImage) : Governor := { index := 3, image := m, renewed := false, stopIgnored := false }

/-- CAPTURE_SLOT into slot 63. -/
def slotImage : EntryImage := { anyImage with action := 0x01, captureSlot := 0x3F }

/-- CAPTURE_QUEUE. -/
def queueImage : EntryImage := { anyImage with action := 0x02 }

/-- OVERLAY with run A of one line at slot 10, run B of one line at slot 11, FORWARD writes as given, STALL as given. -/
def overlayImage (writePolicy fallback : Byte) : EntryImage :=
  { anyImage with
    action := 0x03, careMask := 0xFFFFFFFFC0#40, runA := 10, runB := 12, writePolicy := writePolicy
    fallback := fallback }

/-- The Classifier at work on a request, its Tracker entry 0 CLASSIFYING, in the given mode and session. -/
def atWork (m : Mode) (x : SessionState) (remaining : BitVec 8) (r : Request) (st : Stage) : State :=
  { State.reset.setTrack 0 { TrackerEntry.porst with state := .classifying, source := 5, kind := r.kind, beats := r.beats }
    with
    mode := m, session := { state := x, remaining := remaining }
    work := some { request := r, entry := 0, stage := st } }

/-- A queue run of two slots from 62 on, with the given mode and occupancy. -/
def queueRun (m : QueueMode) (occupancy : Nat) : Queue :=
  { first := 62, count := 2, mode := m, watermark := 2, oldest := 1, occupancy := occupancy }

/-- The Classifier at the action of a CAPTURE_QUEUE entry with that queue, RUNNING. -/
def atQueue (m : QueueMode) (occupancy : Nat) : State :=
  { atWork .active .running 0 readReq (.action (gov queueImage)) with queue := queueRun m occupancy }

/-- A stall on slot 10, TOOL-owned, with the given timer. -/
def atStall (timer : LimitTimer) : State :=
  (atWork .active .idle 0 readReq (.stalled (gov (overlayImage 0 1)) 10 timer)).setSlot 10
    { Slot.porst with owner := .tool }

/-- A FORWARDED entry 0 of source 5 with a link to a PENDING record in slot 7. -/
def atMemory (sent : Bool) (timer : LimitTimer) : State :=
  ((State.reset.setTrack 0
      { TrackerEntry.porst with
        state := .forwarded, source := 5, kind := .read, beats := 2, sent := sent, timer := timer
        link := some { slot := 7, sequence := 9 } }).setOrder 5 [0]).setSlot 7
    { Slot.porst with record := .held, sequence := 9, firstBeat := 6, beats := 2, outcome := .pending }

/-- A HELD entry 0 of source 5 at the head of its list, slot-served or an orphan as given, in the given mode. -/
def atPort (m : Mode) (served orphan : Bool) : State :=
  { (State.reset.setTrack 0
      { TrackerEntry.porst with
        state := .held, source := 5, beats := 1, slotServed := served, orphan := orphan
        buffer := some { status := .done, beats := [0x55#64] } }).setOrder 5 [0] with
    mode := m }

/-- A stored command 02h with sequence 07h. -/
def withStored : State :=
  { State.reset with toolLink :=
      { stored := some { code := 0x02#8, seq := 0x07#8, answer := answer .ok }, outgoing := AnswerFrame.ofNone
        awaitsHigh := false } }

/-- The state after PORST, with the Link waiting for TL_CS_N to go high. -/
def awaiting : State := { State.reset with toolLink := { State.reset.toolLink with awaitsHigh := true } }

/-- A STOP entry with its trigger next, the session in the given state with nothing more to record. -/
def atStop (x : SessionState) : State := atWork .active x 0 readReq (.stop (gov { anyImage with trigger := 2 }))

/-- An ON CAPTURE_SLOT entry on slot 63, an ON OVERLAY entry on slots 10 and 11, and a queue run of slots 61 and 62. -/
def allRoles : State :=
  { (State.reset.setMatch 31 { MatchEntry.porst with state := .on, image := slotImage }).setMatch 0
      { MatchEntry.porst with state := .on, image := overlayImage 0 1 } with
    queue := { queueRun .ring 0 with first := 61 } }

/-- What a property says of the state that a command leaves; false where it leaves none. -/
def leaves (i : Instr) (s : State) (p : State → Bool) : Bool :=
  match exec i s with
  | .next t => p t
  | .fault _ => false
  | .refused _ => false

/-- The status of the answer that a command leaves to be sent. -/
def answered (t : State) : Status := t.toolLink.outgoing.status

/-! ### Well-formedness -/

theorem test_request_without_beats_refused :
    (Instr.requestAccept { writeReq with write := [] }).wellFormed = false := by decide
theorem test_read_with_data_refused :
    (Instr.requestAccept { readReq with write := writeReq.write }).wellFormed = false := by decide
theorem test_whole_requests_accepted :
    (Instr.requestAccept readReq).wellFormed = true ∧ (Instr.requestAccept writeReq).wellFormed = true := by decide
theorem test_duplicate_of_nop_refused : (Instr.duplicate 0x01#8 0#8).wellFormed = false := by decide
theorem test_unknown_command_that_is_known_refused : (Instr.unknownCommand 0x54#8 0#8).wellFormed = false := by decide
theorem test_unknown_command_accepted : (Instr.unknownCommand 0x55#8 0#8).wellFormed = true := by decide

/-- A frame of 94 bytes made of a header, zeros and the CRC. -/
def headFrame (kind code seq zero : Byte) : List Byte := withCrc ([kind, code, seq, zero] ++ List.replicate 88 0x00#8)

theorem headFrame_length (kind code seq zero : Byte) : (headFrame kind code seq zero).length = 94 := by
  simp [headFrame, withCrc, leBytes]

/-- The period that carries such a frame. -/
def framePeriod (kind code seq zero : Byte) : Period := Period.ofBytes (headFrame kind code seq zero)

theorem framePeriod_taken (kind code seq zero : Byte) :
    (framePeriod kind code seq zero).taken = frameTaken (headFrame kind code seq zero) :=
  taken_ofBytes _ (headFrame_length kind code seq zero)

theorem test_resync_frame_is_taken : (framePeriod 0xC3 0xAA 0xBB 0xCC).taken = .resync := by
  rw [framePeriod_taken]
  decide +kernel
theorem test_kind_is_checked : (framePeriod 0x3D 0x02 0 0).taken = .fault .kind := by
  rw [framePeriod_taken]
  decide +kernel
theorem test_header_is_checked : (framePeriod 0x3C 0x02 0 1).taken = .fault .header := by
  rw [framePeriod_taken]
  decide +kernel
theorem test_command_frame_is_taken :
    (framePeriod 0x3C 0x02 0x07 0).taken = .command 0x02 0x07 (List.replicate 88 0) := by
  rw [framePeriod_taken]
  decide +kernel
theorem test_link_fault_without_fault_refused : (Instr.linkFault (framePeriod 0xC3 0xAA 0xBB 0xCC)).wellFormed = false := by
  have h := test_resync_frame_is_taken
  revert h
  generalize framePeriod 0xC3 0xAA 0xBB 0xCC = p
  intro h
  show p.isFault = false
  unfold Period.isFault
  rw [h]
theorem test_short_period_is_a_fault : (Instr.linkFault { bits := [] }).wellFormed = true := by decide

/-! ### The wire -/

theorem test_crc_of_the_manual : crc16 [0x31, 0x32, 0x33, 0x34, 0x35, 0x36, 0x37, 0x38, 0x39] = 0xFEE8#16 := by
  decide +kernel
theorem test_bits_are_sent_highest_first : bitsOfByte 0x3C#8 = [false, false, true, true, true, true, false, false] := by
  decide
theorem test_frame_of_get_status :
    (encodeFrame (.getStatus 0x07)).map (fun f => (f.take 5, f.length)) = some ([0x3C, 0x02, 0x07, 0x00, 0x00], 94) := by
  decide +kernel
theorem test_get_status_frame_is_executed : linkInstr none (framePeriod 0x3C 0x02 0x07 0) = .getStatus 0x07 := by
  have h := test_command_frame_is_taken
  revert h
  generalize framePeriod 0x3C 0x02 0x07 0 = p
  intro h
  unfold linkInstr
  rw [h]
  rfl
theorem test_repeated_frame_is_a_duplicate :
    linkInstr (some (0x02, 0x07)) (framePeriod 0x3C 0x02 0x07 0) = .duplicate 0x02 0x07 := by
  have h := test_command_frame_is_taken
  revert h
  generalize framePeriod 0x3C 0x02 0x07 0 = p
  intro h
  unfold linkInstr
  rw [h]
  rfl
theorem test_write_entry_arguments :
    commandOf 0x10 0x07 ([0x1F, 0x01, 0x02, 0x03, 0x04, 0x05, 0x06, 0x07, 0x08, 0x09, 0x0A, 0x02, 0x3F, 0x3E, 0x03, 0x30,
        0x01, 0x0A, 0x0B, 0x04, 0x01, 0x01, 0x02, 0x01])
      = .writeEntry 0x07 0x1F
          { base := 0x0504030201#40, careMask := 0x0A09080706#40, access := 0x02, sourceRef := 0x3F, sourceMask := 0x3E
            action := 0x03, captureSlot := 0x30, group := 0x01, runA := 0x0A, runB := 0x0B, runLength := 0x04
            writePolicy := 0x01, fallback := 0x01, trigger := 0x02, oneShot := 0x01 } := by decide +kernel
theorem test_set_timebase_arguments :
    commandOf 0x50 0x07 [0x00, 0x01, 0x01, 0x44, 0x33, 0x22, 0x11] = .setTimebase 0x07 256 0x01 0x11223344#32 := by
  decide +kernel

/-! ### One step of each command -/

theorem test_porst : leaves .porst withStored (fun t => t.porstAsserted && t.toolLink.stored.isNone) = true := by
  decide +kernel
theorem test_period_over_porst_is_not_taken :
    leaves .porst State.reset
      (fun t => leaves (.porstRelease true) t (fun u => !u.porstAsserted
        && leaves (.getStatus 7) u (fun v => v.toolLink.stored.isNone
          && leaves (.getStatus 8) v (fun w => answered w == .ok)))) = true := by
  decide +kernel
theorem test_porst_release :
    leaves (.porstRelease false) { State.reset with porstAsserted := true }
      (fun t => leaves (.getStatus 7) t (fun u => answered u == .ok)) = true := by decide +kernel
theorem test_srst_abandons_the_record :
    leaves .srst (atMemory true .unlimited)
      (fun t => t.srstAsserted && (t.slot 7).outcome == .abandoned && (t.track 0).state == .free && t.order 5 == [])
      = true := by decide +kernel
theorem test_srst_completes_a_drain :
    leaves .srst (atPort .draining true false) (fun t => t.mode == .bypass && t.isPending .drainDone) = true := by
  decide +kernel
theorem test_srst_release :
    leaves .srstRelease { State.reset with srstAsserted := true } (fun t => !t.srstAsserted) = true := by decide +kernel
theorem test_request_is_accepted :
    leaves (.requestAccept readReq) State.reset
      (fun t => t.work == some { request := readReq, entry := 0, stage := .lookup } && (t.track 0).beats == 2) = true := by
  decide +kernel
theorem test_misaligned_request_is_rejected :
    leaves (.requestAccept badReq) State.reset
      (fun t => t.work.isNone && t.order 5 == [0] && t.counter .rejects == 1 && t.isPending .reject) = true := by
  decide +kernel
theorem test_classify_in_bypass_forwards :
    leaves .classify (atWork .bypass .idle 0 readReq .lookup)
      (fun t => t.work.isNone && (t.track 0).state == .forwarded && t.tracker.sendList.length == 1) = true := by
  decide +kernel
theorem test_classify_finds_the_lowest_entry :
    leaves .classify
      ((((atWork .active .idle 0 readReq .lookup).setMatch 31 { MatchEntry.porst with state := .on, image := anyImage }).setMatch
        3 { MatchEntry.porst with state := .on, image := anyImage, hits := 65535 }))
      (fun t => t.work == some { request := readReq, entry := 0, stage := .action (gov anyImage) }
        && (t.matchEntry 3).hits == 65535 && (t.matchEntry 31).hits == 0) = true := by decide +kernel
theorem test_start_trigger_starts_an_armed_session :
    leaves .startTrigger (atWork .active .armed 4 readReq (.start (gov { anyImage with trigger := 1 })))
      (fun t => t.session == { state := .running, remaining := 4 }) = true := by decide +kernel
theorem test_watch_forwards :
    leaves .watchAction (atWork .active .idle 0 readReq (.action (gov anyImage)))
      (fun t => t.work.isNone && (t.track 0).state == .forwarded) = true := by decide +kernel
theorem test_capture_slot_records :
    leaves .captureSlotAction (atWork .active .running 0 writeReq (.action (gov slotImage)))
      (fun t => (t.slot 63).record == .held && (t.slot 63).data[8] == 0x88 && (t.slot 63).data[9] == 0
        && (t.slot 63).data[15] == 0x11 && (t.slot 63).new && t.captureSeq == 1
        && (t.track 0).link.isNone) = true := by decide +kernel
theorem test_capture_slot_counts_a_miss :
    leaves .captureSlotAction
      ((atWork .active .running 0 writeReq (.action (gov slotImage))).setSlot 63 { Slot.porst with owner := .tool })
      (fun t => (t.matchEntry 3).misses == 1 && (t.slot 63).record == .empty && (t.track 0).state == .forwarded) = true := by
  decide +kernel
theorem test_capture_queue_fills_around_the_ring :
    leaves .captureQueueAction (atQueue .stopWhenFull 1)
      (fun t => (t.slot 62).record == .held && t.queue.occupancy == 2 && t.isPending .watermark && !(t.slot 62).new)
      = true := by decide +kernel
theorem test_capture_queue_replaces_in_ring :
    leaves .captureQueueAction (atQueue .ring 2)
      (fun t => (t.slot 63).record == .held && t.queue.oldest == 0 && t.queue.occupancy == 2
        && t.counter .queueOverwrites == 1) = true := by decide +kernel
theorem test_overlay_serves_a_read :
    leaves .overlayAction
      ((atWork .active .idle 0 readReq (.action (gov (overlayImage 0 0)))).setSlot 10
        { Slot.porst with data := Vector.ofFn fun i => BitVec.ofNat 8 i.val })
      (fun t => (t.track 0).buffer
          == some { status := .done, beats := [0x3736353433323130#64, 0x3F3E3D3C3B3A3938#64] }
        && (t.track 0).slotServed) = true := by decide +kernel
theorem test_overlay_stalls :
    leaves .overlayAction
      ((atWork .active .idle 0 readReq (.action (gov (overlayImage 0 1)))).setSlot 10 { Slot.porst with owner := .tool })
      (fun t => t.stall.isSome && (t.track 0).state == .classifying) = true := by decide +kernel
theorem test_history_append :
    leaves .historyAppend (atWork .active .running 0 readReq (.append (gov slotImage) { slot := 63, sequence := 1 }))
      (fun t => t.history == [{ slot := 63, sequence := 1 }]
        && (t.track 0).link == some { slot := 63, sequence := 1 }
        && t.work == some { request := readReq, entry := 0, stage := .notice (gov slotImage) }) = true := by decide +kernel
theorem test_record_notice_freezes :
    leaves .recordNotice (atWork .active .stopping 1 readReq (.notice (gov slotImage)))
      (fun t => t.session == { state := .frozen, remaining := 0 } && t.isPending .frozen
        && (t.track 0).state == .forwarded) = true := by decide +kernel
theorem test_stop_trigger_stops_a_running_session :
    leaves .stopTrigger (atWork .active .running 3 readReq (.stop (gov { anyImage with trigger := 2 })))
      (fun t => t.session == { state := .stopping, remaining := 3 } && t.work.isNone) = true := by decide +kernel
theorem test_stop_trigger_that_is_ignored :
    leaves (.sessionRun 8 0) (atStop .frozen)
      (fun t => leaves .stopTrigger t (fun u => u.session == { state := .running, remaining := 0 } && u.work.isNone))
      = true := by decide +kernel
theorem test_one_shot_retires :
    leaves .oneShotRetire
      ((atWork .active .idle 0 readReq (.retire (gov { anyImage with oneShot := 1 }))).setMatch 3
        { MatchEntry.porst with state := .on, hits := 5 })
      (fun t => (t.matchEntry 3).state == .off && (t.matchEntry 3).hits == 5 && t.work.isNone) = true := by decide +kernel
theorem test_one_shot_enabled_again_stays :
    leaves .oneShotRetire
      ((atWork .active .idle 0 readReq (.retire { gov { anyImage with oneShot := 1 } with renewed := true })).setMatch 3
        { MatchEntry.porst with state := .on })
      (fun t => (t.matchEntry 3).state == .on && t.work.isNone) = true := by decide +kernel
theorem test_mport_send :
    leaves .mportSend ((atMemory false .unlimited).setSendList [{ entry := 0, request := readReq }])
      (fun t => (t.track 0).sent && t.tracker.sendList == []
        && t.mportRequest == some { tag := 0, kind := .read, address := 0x70, beats := 2, write := [] }) = true := by
  decide +kernel
theorem test_memory_response_fills_the_record :
    leaves (.memoryResponse 0 .done [0x11#64, 0x22#64, 0x33#64]) (atMemory true .unlimited)
      (fun t => (t.slot 7).data[48] == 0x11 && (t.slot 7).data[56] == 0x22 && (t.slot 7).outcome == .done
        && (t.track 0).buffer == some { status := .done, beats := [0x11#64, 0x22#64] }) = true := by decide +kernel
theorem test_stray_and_late_responses_are_counted :
    leaves (.memoryResponse 15 .fault []) State.reset (fun t => t.counter .strayResponses == 1) = true
      ∧ leaves (.memoryResponse 0 .done []) (atMemory true .expiryDue)
        (fun t => t.counter .noAnswers == 1 && t.counter .lateResponses == 1 && !(t.track 0).orphan) = true := by
  decide +kernel
theorem test_tick_expires_a_limit :
    leaves .tick (atMemory true (.running 1)) (fun t => (t.track 0).timer == .expiryDue && t.timeBase.value == 1) = true := by
  decide +kernel
theorem test_tick_below_the_prescaler :
    leaves .tick { State.reset with timeBase := { TimeBase.porst with prescaler := 2 } }
      (fun t => t.timeBase.value == 0 && t.timeBase.phase == 1) = true := by decide +kernel
theorem test_response_limit_expiry :
    leaves (.responseLimitExpiry 0) (atMemory true .expiryDue)
      (fun t => (t.track 0).orphan && (t.slot 7).outcome == .memFault && t.counter .noAnswers == 1) = true := by
  decide +kernel
theorem test_stall_limit_expiry :
    leaves .stallLimitExpiry (atStall .expiryDue)
      (fun t => (t.track 0).buffer == some { status := .overlayUnavailable, beats := [] }
        && t.counter .stallExpiries == 1 && (t.matchEntry 3).misses == 1 && !(t.track 0).slotServed) = true := by
  decide +kernel
theorem test_arbiter_grant_completes_a_drain :
    leaves .arbiterGrant (atPort .draining true false)
      (fun t => t.sportResponse == some { source := 5, status := .done, beats := [0x55#64] } && t.mode == .bypass
        && t.isPending .drainDone && t.tracker.pointer == 5 && (t.track 0).state == .free) = true := by decide +kernel
theorem test_arbiter_grant_leaves_an_orphan :
    leaves .arbiterGrant (atPort .active false true) (fun t => (t.track 0).state == .orphaned) = true := by decide +kernel
theorem test_link_fault_short :
    leaves (.linkFault { bits := [true] }) withStored
      (fun t => answered t == .linkFault && t.toolLink.outgoing.payload[0] == 0x10 && t.counter .linkFaults == 1
        && t.toolLink.stored.isSome) = true := by decide +kernel
theorem test_resync : leaves .resync withStored (fun t => t.toolLink.stored.isNone) = true := by decide +kernel
theorem test_duplicate :
    leaves (.duplicate 0x02 0x07) withStored (fun t => t.toolLink.outgoing.kind == .replayed) = true := by decide +kernel
theorem test_unknown_command : leaves (.unknownCommand 0x55 0) State.reset (fun t => answered t == .unknown) = true := by
  decide +kernel
theorem test_nop : leaves (.nop 9) withStored (fun t => t.toolLink.outgoing.seq == 9 && t.toolLink.stored.isSome) = true := by
  decide +kernel
theorem test_get_status :
    leaves (.getStatus 8) (atStall .unlimited)
      (fun t => t.toolLink.outgoing.payload.toList.take 3 == [0x01, 0x01, 0x03]
        && t.toolLink.outgoing.payload[11] == 15) = true := by decide +kernel
theorem test_clear_unit :
    leaves (.clearUnit 8) { State.reset with captureSeq := 9 } (fun t => answered t == .ok && t.captureSeq == 0) = true := by
  decide +kernel
theorem test_write_entry :
    leaves (.writeEntry 8 0x1F anyImage) State.reset
      (fun t => (t.matchEntry 31).image == anyImage && (t.matchEntry 31).state == .off) = true := by decide +kernel
theorem test_write_entry_index :
    leaves (.writeEntry 8 0x20 anyImage) State.reset
      (fun t => answered t == .badArg && t.toolLink.outgoing.payload[0] == 0x01) = true := by decide +kernel
theorem test_read_entry :
    leaves (.readEntry 8 0x1F) (State.reset.setMatch 31 { MatchEntry.porst with state := .on, hits := 0x1234 })
      (fun t => t.toolLink.outgoing.payload.toList.take 2 == [0x1F, 0x01] && t.toolLink.outgoing.payload[25] == 0x34)
      = true := by decide +kernel
theorem test_enable_entry :
    leaves (.enableEntry 8 3) (atWork .active .idle 0 readReq (.retire (gov { anyImage with oneShot := 1 })))
      (fun t => (t.matchEntry 3).state == .on && answered t == .ok
        && t.work == some
          { request := readReq, entry := 0
            stage := .retire { gov { anyImage with oneShot := 1 } with renewed := true } }) = true := by decide +kernel
theorem test_enable_entry_slot_conflict :
    leaves (.enableEntry 8 0)
      ((State.reset.setMatch 0 { MatchEntry.porst with image := slotImage }).setMatch 1
        { MatchEntry.porst with state := .on, image := slotImage })
      (fun t => (t.matchEntry 0).state == .off && t.toolLink.outgoing.payload[0] == 0x07) = true := by decide +kernel
theorem test_disable_entry_busy :
    leaves (.disableEntry 8 3) ((atStall .unlimited).setMatch 3 { MatchEntry.porst with state := .on })
      (fun t => answered t == .busy && (t.matchEntry 3).state == .on) = true := by decide +kernel
theorem test_clear_entry_counts :
    leaves (.clearEntryCounts 8 3) (State.reset.setMatch 3 { MatchEntry.porst with hits := 4, misses := 5 })
      (fun t => (t.matchEntry 3).hits == 0 && (t.matchEntry 3).misses == 0) = true := by decide +kernel
theorem test_set_mode_drains :
    leaves (.setMode 8 0) (atPort .active true false) (fun t => t.mode == .draining && answered t == .accepted) = true := by
  decide +kernel
theorem test_set_mode_ends_a_stall :
    leaves (.setMode 8 0) (atStall .unlimited)
      (fun t => t.mode == .bypass && t.work.isNone && (t.track 0).state == .forwarded) = true := by decide +kernel
theorem test_take_slot : leaves (.takeSlot 8 63) State.reset (fun t => (t.slot 63).owner == .tool) = true := by
  decide +kernel
theorem test_take_slot_of_the_queue :
    leaves (.takeSlot 8 63) { State.reset with queue := queueRun .ring 0 }
      (fun t => answered t == .badState && (t.slot 63).owner == .unit) = true := by decide +kernel
theorem test_release_slot_serves_the_stall :
    leaves (.releaseSlot 8 10) (atStall .unlimited)
      (fun t => (t.slot 10).owner == .unit && (t.track 0).slotServed && t.work.isNone) = true := by decide +kernel
theorem test_release_slot_meets_the_expiry :
    leaves (.releaseSlot 8 10) (atStall .expiryDue)
      (fun t => (t.slot 10).owner == .unit && !(t.track 0).slotServed && t.counter .stallExpiries == 1) = true := by
  decide +kernel
theorem test_write_slot :
    leaves (.writeSlot 8 10 63 1 (Vector.replicate 64 0xAB)) (atStall .unlimited)
      (fun t => (t.slot 10).data[63] == 0xAB && (t.slot 10).data[62] == 0) = true := by decide +kernel
theorem test_write_slot_extent :
    leaves (.writeSlot 8 10 63 2 (Vector.replicate 64 0xAB)) (atStall .unlimited)
      (fun t => t.toolLink.outgoing.payload[0] == 0x09) = true := by decide +kernel
theorem test_read_slot :
    leaves (.readSlot 8 7) (atMemory true .unlimited)
      (fun t => t.toolLink.outgoing.payload.toList.take 7 == [0x07, 0x02, 0x00, 0x00, 0x0E, 0x09, 0x00]) = true := by
  decide +kernel
theorem test_ack_slot_stale :
    leaves (.ackSlot 8 7 8) (atMemory true .unlimited)
      (fun t => answered t == .stale && t.toolLink.outgoing.payload[1] == 0x09) = true := by decide +kernel
theorem test_read_history :
    leaves (.readHistory 8) { State.reset with history := List.replicate 9 { slot := 63, sequence := 1 } }
      (fun t => t.history.length == 1 && t.toolLink.outgoing.payload.toList.take 4 == [0x08, 0x3F, 0x01, 0x00]) = true := by
  decide +kernel
theorem test_config_queue :
    leaves (.configQueue 8 62 2 1 2) State.reset (fun t => t.queue == { queueRun .ring 0 with oldest := 0 }) = true := by
  decide +kernel
theorem test_config_queue_slot_range :
    leaves (.configQueue 8 63 2 1 2) State.reset (fun t => t.toolLink.outgoing.payload[0] == 0x04) = true := by
  decide +kernel
theorem test_pop_queue :
    leaves (.popQueue 8) { State.reset with queue := queueRun .ring 2 }
      (fun t => t.queue.oldest == 0 && t.queue.occupancy == 1 && t.toolLink.outgoing.payload[0] == 0x3F) = true := by
  decide +kernel
theorem test_switch_bank_serves_the_stall :
    leaves (.switchBank 8 0 1) (atStall .unlimited)
      (fun t => (t.banks[0] : Bank) == .b && (t.track 0).slotServed && (t.slot 10).owner == .tool) = true := by
  decide +kernel
theorem test_switch_bank_meets_the_expiry :
    leaves (.switchBank 8 0 1) (atStall .expiryDue)
      (fun t => (t.banks[0] : Bank) == .b && !(t.track 0).slotServed && t.counter .stallExpiries == 1) = true := by
  decide +kernel
theorem test_session_arm :
    leaves (.sessionArm 8 255) State.reset (fun t => t.session == { state := .armed, remaining := 255 }) = true := by
  decide +kernel
theorem test_session_run :
    leaves (.sessionRun 8 0) State.reset (fun t => t.session == { state := .running, remaining := 0 }) = true := by
  decide +kernel
theorem test_session_halt :
    leaves (.sessionHalt 8) { State.reset with session := { state := .armed, remaining := 3 } }
      (fun t => t.session == { state := .frozen, remaining := 3 } && t.isPending .frozen) = true := by decide +kernel
theorem test_session_clear :
    leaves (.sessionClear 8) { State.reset with session := { state := .frozen, remaining := 3 }, queue := queueRun .ring 2 }
      (fun t => t.session == { state := .idle, remaining := 0 } && t.queue.occupancy == 0 && t.queue.count == 2) = true := by
  decide +kernel
theorem test_set_limits :
    leaves (.setLimits 8 0xFFFF 1) State.reset
      (fun t => t.tracker.responseLimit == 0xFFFF && t.tracker.stallLimit == 1) = true := by decide +kernel
theorem test_set_timebase_waits :
    leaves (.setTimebase 8 256 1 7) State.reset
      (fun t => t.timeBase.waiting == some { prescaler := 256, load := some 7 } && t.timeBase.prescaler == 1) = true := by
  decide +kernel
theorem test_read_counters :
    leaves (.readCounters 8) (State.reset.count .linkFaults) (fun t => t.toolLink.outgoing.payload[20] == 1) = true := by
  decide +kernel
theorem test_clear_counters :
    leaves (.clearCounters 8 0x0400) ((State.reset.count .linkFaults).count .rejects)
      (fun t => t.counter .linkFaults == 0 && t.counter .rejects == 1) = true := by decide +kernel
theorem test_set_alert_enable :
    leaves (.setAlertEnable 8 0x07FF) State.reset (fun t => t.alerts.enableSet == 0x7FF) = true := by decide +kernel
theorem test_set_alert_enable_field :
    leaves (.setAlertEnable 8 0x0800) State.reset (fun t => t.toolLink.outgoing.payload[0] == 0x03) = true := by
  decide +kernel
theorem test_ack_alert :
    leaves (.ackAlert 8 0x0001) (State.raise .reject (State.raise .frozen State.reset))
      (fun t => !t.isPending .frozen && t.isPending .reject) = true := by decide +kernel
theorem test_alert_line : (State.raise .frozen State.reset).alert = false := by decide +kernel

theorem test_alert_n_and_tl_sdo :
    (State.raise .frozen State.reset).alertN = .highZ ∧ State.reset.sdo false 0 = .highZ ∧ State.reset.sdo true 0 = .low
      ∧ awaiting.sdo true 0 = .highZ := by decide +kernel

/-! ### The hypotheses of the statements can be met -/

/-- With the Link as it is after PORST any command frame is executed. -/
theorem executes_of_none {s : State} (hp : s.porstAsserted = false) (hs : s.toolLink = ToolLink.porst) (code seq : Byte) :
    s.Executes code seq := by
  unfold State.Executes State.TakesPeriods State.storedPair
  rw [hs]
  exact ⟨⟨hp, by decide⟩, by simp [ToolLink.porst]⟩

/-- With no stall, nothing said of a stall is contradicted. -/
theorem no_stall {s : State} (h : s.stall = none) {p : Work → Governor → SlotId → LimitTimer → Prop} :
    ∀ w g n timer, s.stall = some (w, g, n, timer) → p w g n timer := by
  intro w g n timer hs
  rw [h] at hs
  cases hs

theorem witness_step_runs_the_front_command :
    ({ State.reset with pending := [.tick] } : State).pending = .tick :: [] ∧ State.reset.pending = [] := by decide

theorem witness_porst :
    ({ State.reset with porstAsserted := true } : State).porstAsserted = true
      ∧ awaiting.toolLink.awaitsHigh = true ∧ awaiting.porstAsserted = false
      ∧ (Instr.nop 0xFF).wellFormed = true ∧ commandFields (.nop 0xFF) = some (0x01#8, 0xFF#8, []) := by decide

theorem witness_answer_frames :
    State.reset.toolLink.awaitsHigh = false ∧ State.reset.porstAsserted = false
      ∧ awaiting.toolLink.awaitsHigh = true
      ∧ State.reset.toolLink.outgoing.bytes[0 / 8]? = some 0x00#8
      ∧ (State.reset.toolLink.outgoing.bytes[751 / 8]?).isSome = true := by decide +kernel

theorem witness_periods :
    (List.replicate 751 true).length < 752 ∧ (headFrame 0x3C 0x02 0x07 0).length = 94
      ∧ (framePeriod 0x3D 0x02 0 0).taken = .fault .kind ∧ (framePeriod 0xC3 0xAA 0xBB 0xCC).taken = .resync
      ∧ (framePeriod 0x3C 0x02 0x07 0).taken = .command 0x02 0x07 (List.replicate 88 0) ∧ (0x02#8 : Byte) ≠ 0x01#8
      ∧ (some (0x02#8, 0x07#8) : Option (Byte × Byte)) = some (0x02, 0x07)
      ∧ (none : Option (Byte × Byte)) ≠ some (0x02, 0x07) :=
  ⟨by simp, headFrame_length _ _ _ _, test_kind_is_checked, test_resync_frame_is_taken, test_command_frame_is_taken,
    by decide, rfl, by decide⟩

/-- The period of a NOP frame is taken as NOP, for the clause of code 01h. -/
theorem witness_periods_of_nop : (framePeriod 0x3C 0x01 0xFF 0).taken = .command 0x01 0xFF (List.replicate 88 0) := by
  rw [framePeriod_taken]
  decide +kernel

theorem witness_command_frames :
    (Instr.switchBank 0xFF 3 1).wellFormed = true
      ∧ commandFields (.switchBank 0xFF 3 1) = some (0x38#8, 0xFF#8, [0x03#8, 0x01#8])
      ∧ encodeFrame (.switchBank 0xFF 3 1) = some (commandFrame 0x38 0xFF [0x03, 0x01])
      ∧ (some (0x38#8, 0x00#8) : Option (Byte × Byte)) ≠ some (0x38, 0xFF) := ⟨rfl, rfl, rfl, by decide⟩

/-- A code that names no command, and the data of a WRITE_SLOT, for the clauses on codes and arguments. -/
theorem witness_command_codes_and_arguments :
    0x55#8 ∉ [0x01#8, 0x02#8, 0x03#8, 0x10#8, 0x11#8, 0x12#8, 0x13#8, 0x14#8, 0x18#8, 0x20#8, 0x21#8, 0x22#8, 0x23#8,
        0x28#8, 0x29#8, 0x30#8, 0x31#8, 0x38#8, 0x40#8, 0x41#8, 0x42#8, 0x43#8, 0x48#8, 0x50#8, 0x51#8, 0x52#8, 0x53#8,
        0x54#8]
      ∧ ∀ k : Fin 64, (Vector.replicate 64 0x5A#8)[k] = (Vector.replicate 88 0x5A#8 : Payload)[3 + k.val] :=
  ⟨by decide, fun k => by simp⟩

theorem witness_one_changed_bit : (List.replicate 92 0x5A#8).length = 92 := List.length_replicate

theorem witness_repeated_command :
    (withStored.porstAsserted = false ∧ withStored.toolLink.awaitsHigh = false)
      ∧ withStored.toolLink.stored = some { code := 0x02#8, seq := 0x07#8, answer := answer .ok }
      ∧ (Instr.getStatus 0x07).wellFormed = true ∧ commandFields (.getStatus 0x07) = some (0x02#8, 0x07#8, [])
      ∧ (0x02#8 : Byte) ≠ 0x01#8 := by decide +kernel

theorem witness_executed_command :
    (Instr.getStatus 0x08).wellFormed = true ∧ commandFields (.getStatus 0x08) = some (0x02#8, 0x08#8, [])
      ∧ (0x02#8 : Byte) ≠ 0x01#8 ∧ withStored.Executes 0x02 0x08 := ⟨rfl, rfl, by decide, ⟨rfl, by decide⟩, by decide⟩

theorem witness_link_answers :
    (withStored.porstAsserted = false ∧ withStored.toolLink.awaitsHigh = false) ∧ namesCommand 0x55#8 = false ∧ withStored.storedPair ≠ some (0x55, 0x00)
      ∧ (Period.mk []).taken = .fault .short := by decide +kernel

theorem witness_alert_and_counter_commands :
    (∀ code : Byte, State.reset.Executes code 0) ∧ (2048#16).toNat ≥ 2048 ∧ (2047#16).toNat < 2048 :=
  ⟨fun code => executes_of_none rfl rfl code 0, by decide, by decide⟩

/-- An ON entry 31 and an OFF entry 0. -/
def twoEntries : State := State.reset.setMatch 31 { MatchEntry.porst with state := .on, image := slotImage }

theorem witness_entry_commands :
    (∀ code : Byte, twoEntries.Executes code 0) ∧ (32#8).toNat ≥ 32 ∧ (31#8).toNat = (31 : Fin 32).val
      ∧ (0#8).toNat = (0 : Fin 32).val ∧ (twoEntries.matchEntry 31).state = .on ∧ (twoEntries.matchEntry 0).state = .off :=
  ⟨fun code => executes_of_none rfl rfl code 0, by decide, by decide, by decide, by decide +kernel, by decide +kernel⟩

theorem witness_enable_and_disable_entry :
    (State.reset.enableFailure 0 = none ∧ (State.reset.matchEntry 0).state = .off)
      ∧ (State.reset.setMatch 31 { MatchEntry.porst with image := { anyImage with action := 4 } }).enableFailure 31
        = some .action
      ∧ ((atStall .unlimited).stall
          = some ({ request := readReq, entry := 0, stage := .stalled (gov (overlayImage 0 1)) 10 .unlimited },
              gov (overlayImage 0 1), 10, .unlimited) ∧ (gov (overlayImage 0 1)).index = 3)
      ∧ (∀ w g n timer, twoEntries.stall = some (w, g, n, timer) → g.index ≠ 31)
      ∧ ∀ st : Stage, (atWork .active .idle 0 readReq st).work = some { request := readReq, entry := 0, stage := st }
        ∧ (atWork .active .idle 0 readReq st).enableFailure 3 = none
        ∧ ((atWork .active .idle 0 readReq st).matchEntry 3).state = .off :=
  have failure : State.reset.enableFailure 3 = none := by decide +kernel
  have off : (State.reset.matchEntry 3).state = .off := by decide +kernel
  ⟨by decide +kernel, by decide +kernel, by decide +kernel, no_stall rfl, fun _ => ⟨rfl, failure, off⟩⟩

theorem witness_enable_checks :
    fieldsInRange (overlayImage 0 1) = true ∧ (overlayImage 0 1).action = 0x03#8 ∧ slotImage.action = 0x01#8
      ∧ slotsInRange (overlayImage 0 1) = true ∧ slotsInRange slotImage = true
      ∧ anyImage.action = 0x00#8 ∧ queueImage.action = 0x02#8
      ∧ (overlayImage 0 1).runLength.toNat ≤ 4 ∧ ({ overlayImage 0 1 with runLength := 4 } : EntryImage).runLength.toNat ≤ 4
      ∧ windowShaped { overlayImage 0 1 with runLength := 4, careMask := 0xFFFFFFFC00#40 } = true := by decide +kernel

theorem witness_set_mode :
    (∀ seq : Byte, State.reset.Executes 0x18 seq) ∧ (2#8).toNat ≥ 2 ∧ (1#8).toNat = 1 ∧ (0#8).toNat = 0
      ∧ State.reset.mode = .bypass
      ∧ ((atPort .draining true false).mode = .draining ∧ (atPort .draining true false).porstAsserted = false)
      ∧ ((atPort .active true false).mode = .active ∧ (atPort .active true false).stall = none
          ∧ ∃ t : Tag, ((atPort .active true false).track t).slotServed = true)
      ∧ ((atStall .expiryDue).mode = .active ∧ ∀ t : Tag, ((atStall .expiryDue).track t).slotServed = false)
      ∧ (atStall .expiryDue).stall
        = some ({ request := readReq, entry := 0, stage := .stalled (gov (overlayImage 0 1)) 10 .expiryDue },
            gov (overlayImage 0 1), 10, .expiryDue)
      ∧ (∃ t, exec .stallLimitExpiry (atStall .expiryDue) = .next t) ∧ (LimitTimer.running 1 ≠ .expiryDue)
      ∧ (atStall (.running 1)).stall
        = some ({ request := readReq, entry := 0, stage := .stalled (gov (overlayImage 0 1)) 10 (.running 1) },
            gov (overlayImage 0 1), 10, .running 1) :=
  ⟨fun seq => executes_of_none rfl rfl 0x18 seq, by decide, rfl, rfl, rfl, by decide +kernel, by decide +kernel,
    by decide +kernel, by decide +kernel, ⟨_, rfl⟩, by decide, by decide +kernel⟩

theorem witness_take_and_release_slot :
    (∀ code : Byte, (atStall .unlimited).Executes code 0) ∧ (64#8).toNat ≥ 64 ∧ (63#8).toNat = (63 : SlotId).val
      ∧ ({ State.reset with queue := queueRun .ring 0 } : State).role 63 = .queue ∧ State.reset.role 63 ≠ .queue
      ∧ ((atStall .unlimited).slot 63).owner = .unit ∧ ((atStall .unlimited).slot 10).owner = .tool
      ∧ (∀ w g stalled timer, (State.reset.setSlot 63 { Slot.porst with owner := .tool }).stall
          = some (w, g, stalled, timer) → stalled ≠ 63)
      ∧ (atStall .unlimited).stall
        = some ({ request := readReq, entry := 0, stage := .stalled (gov (overlayImage 0 1)) 10 .unlimited },
            gov (overlayImage 0 1), 10, .unlimited) :=
  ⟨fun code => executes_of_none rfl rfl code 0, by decide, by decide, by decide +kernel, by decide +kernel,
    by decide +kernel, by decide +kernel, no_stall rfl, by decide +kernel⟩

theorem witness_write_slot :
    (atStall .unlimited).Executes 0x22 0 ∧ (64#8).toNat ≥ 64 ∧ (10#8).toNat = (10 : SlotId).val
      ∧ (63#8).toNat + (2#8).toNat > 64 ∧ 1 ≤ (1#8).toNat ∧ (63#8).toNat + (1#8).toNat ≤ 64 ∧ (0#8).toNat + (64#8).toNat ≤ 64
      ∧ ((atStall .unlimited).slot 11).owner = .unit ∧ ((atStall .unlimited).slot 10).owner = .tool :=
  ⟨executes_of_none rfl rfl _ _, by decide, by decide, by decide, by decide, by decide, by decide, by decide +kernel,
    by decide +kernel⟩

theorem witness_read_and_ack_slot :
    (∀ code : Byte, (atMemory true .unlimited).Executes code 0) ∧ (64#8).toNat ≥ 64 ∧ (7#8).toNat = (7 : SlotId).val
      ∧ 1 ≤ ((atMemory true .unlimited).slot 7).beats ∧ ((atMemory true .unlimited).slot 7).beats ≤ 8
      ∧ ((atMemory true .unlimited).slot 7).record = .held ∧ ((atMemory true .unlimited).slot 7).sequence = 9
      ∧ ((atMemory true .unlimited).slot 63).record = .empty ∧ ((atMemory true .unlimited).slot 7).sequence ≠ 8 :=
  ⟨fun code => executes_of_none rfl rfl code 0, by decide, by decide, by decide +kernel, by decide +kernel,
    by decide +kernel, by decide +kernel, by decide +kernel, by decide +kernel⟩

theorem witness_roles :
    (allRoles.Executes 0x23 0 ∧ allRoles.EntriesChecked)
      ∧ (allRoles.queue.first ≤ (62 : SlotId).val ∧ (62 : SlotId).val < allRoles.queue.first + allRoles.queue.count)
      ∧ ((allRoles.matchEntry 31).state = .on ∧ (allRoles.matchEntry 31).image.action = 0x01#8
        ∧ (allRoles.matchEntry 31).image.captureSlot = 63)
      ∧ ((allRoles.matchEntry 0).state = .on ∧ (allRoles.matchEntry 0).image.action = 0x03#8
        ∧ (allRoles.matchEntry 0).image.runA = 10 ∧ (10 : SlotId).val < (10#8).toNat + 2 ^ 0
        ∧ (11#8).toNat + 1 = (allRoles.matchEntry 0).image.runB.toNat)
      ∧ allRoles.role 62 = .queue ∧ allRoles.role 63 = .capture ∧ allRoles.role 11 = .overlay
      ∧ allRoles.role 12 = .unbound := by
  refine ⟨⟨executes_of_none rfl rfl _ _, fun i => ?_⟩, by decide +kernel⟩
  revert i
  decide +kernel

theorem witness_record_creation :
    readReq.wellFormed = true ∧ writeReq.wellFormed = true ∧ readReq.kind = .read ∧ writeReq.kind = .write
      ∧ (newRecord State.reset writeReq true Slot.porst).firstBeat.toNat = 1
      ∧ writeReq.write[(15 : Fin 64).val / 8 - 1]? = some { enables := 0x81#8, data := 0x1122334455667788#64 }
      ∧ 1 ≤ (8 : Fin 64).val / 8 ∧ (15 : Fin 64).val / 8 < 1 + writeReq.beats
      ∧ ¬ (1 ≤ (7 : Fin 64).val / 8) ∧ ¬ ((16 : Fin 64).val / 8 < 1 + writeReq.beats) := by decide +kernel

theorem witness_closing_access :
    (((atMemory true .unlimited).slot 7).owner = .unit ∧ ((atMemory true .unlimited).slot 7).record = .held
        ∧ ((atMemory true .unlimited).slot 7).sequence = 9 ∧ ((atMemory true .unlimited).slot 7).outcome = .pending)
      ∧ ¬ (State.reset.slot 7).record = .held := by decide +kernel

theorem witness_read_history :
    (∀ s : State, s.porstAsserted = false → s.toolLink = ToolLink.porst → s.Executes 0x29 0) ∧ State.reset.history = []
      ∧ ({ State.reset with history := [{ slot := 63, sequence := 0xFFFF }] } : State).history ≠ [] :=
  ⟨fun _ hp hs => executes_of_none hp hs 0x29 0, rfl, by decide⟩

theorem witness_config_queue :
    State.reset.Executes 0x30 0 ∧ ({ State.reset with session := { state := .frozen, remaining := 0 } } : State).session.state
        ≠ .idle
      ∧ State.reset.session.state = .idle ∧ (0#8 : Byte) = 0 ∧ (2#8 : Byte) ≠ 0
      ∧ ((State.reset.setMatch 31 { MatchEntry.porst with state := .on, image := queueImage }).matchEntry 31).state = .on
      ∧ queueImage.action = 0x02#8
      ∧ (∀ i : Fin 32, (State.reset.matchEntry i).state = .on → (State.reset.matchEntry i).image.action ≠ 0x02#8)
      ∧ (2 ≤ (2#8).toNat ∧ (32#8).toNat ≤ 32 ∧ (1#8).toNat ≤ 1 ∧ 1 ≤ (1#8).toNat ∧ (32#8).toNat ≤ (32#8).toNat)
      ∧ ¬ 2 ≤ (1#8).toNat ∧ (32#8).toNat + (32#8).toNat ≤ 64 ∧ ¬ (33#8).toNat + (32#8).toNat ≤ 64
      ∧ twoEntries.namedByOn 63 = true ∧ (∀ n : Fin 64, State.reset.namedByOn n.val = false)
      ∧ (∀ n : SlotId, (State.reset.slot n).owner = .unit) ∧ ((atStall .unlimited).slot 10).owner ≠ .unit :=
  ⟨executes_of_none rfl rfl _ _, by decide, by decide, rfl, by decide, by decide +kernel, by decide, by decide +kernel,
    by decide, by decide, by decide, by decide, by decide +kernel, by decide +kernel, by decide +kernel,
    by decide +kernel⟩

theorem witness_pop_queue :
    (∀ s : State, s.porstAsserted = false → s.toolLink = ToolLink.porst → s.Executes 0x31 0) ∧ State.reset.queue.count = 0
      ∧ ((queueRun .ring 0).count ≠ 0 ∧ (queueRun .ring 0).occupancy = 0)
      ∧ ((queueRun .ring 2).occupancy ≠ 0 ∧ (63 : SlotId).val = (queueRun .ring 2).first + (queueRun .ring 2).oldest) :=
  ⟨fun _ hp hs => executes_of_none hp hs 0x31 0, rfl, by decide, by decide⟩

theorem witness_switch_bank :
    (∀ seq : Byte, (atStall .unlimited).Executes 0x38 seq) ∧ (4#8).toNat ≥ 4 ∧ (2#8).toNat ≥ 2
      ∧ (3#8).toNat = (3 : Fin 4).val ∧ (0#8).toNat = (if (Bank.a = .a) then 0 else 1)
      ∧ (1#8).toNat = (if (Bank.b = .a) then 0 else 1)
      ∧ ((atStall .unlimited).banks[(3 : Fin 4)] = Bank.a ∧ (atStall .unlimited).banks[(0 : Fin 4)] ≠ Bank.b)
      ∧ (∀ w g n timer, State.reset.stall = some (w, g, n, timer) → groupOf g.image ≠ 3)
      ∧ ((atStall .expiryDue).stall.isSome = true ∧ ((atStall .expiryDue).slot 11).owner = .unit
        ∧ ∃ t, exec .stallLimitExpiry (atStall .expiryDue) = .next t)
      ∧ groupOf (gov (overlayImage 0 1)).image = 0
      ∧ ((atStall .unlimited).slot (servingSlotOf (overlayImage 0 1) .b readReq)).owner = .unit
      ∧ (((atStall .unlimited).setSlot 11 { Slot.porst with owner := .tool }).slot
          (servingSlotOf (overlayImage 0 1) .b readReq)).owner = .tool :=
  ⟨fun seq => executes_of_none rfl rfl 0x38 seq, by decide, by decide, by decide, by decide, by decide, by decide +kernel,
    no_stall rfl, ⟨by decide +kernel, by decide +kernel, ⟨_, rfl⟩⟩, by decide +kernel, by decide +kernel, by decide +kernel⟩

/-- A state whose session is in the given state, with 255 records remaining. -/
def inSession (x : SessionState) : State := { State.reset with session := { state := x, remaining := 255 } }

theorem witness_session_commands :
    (∀ (x : SessionState) (code seq : Byte), (inSession x).Executes code seq)
      ∧ (∀ x : SessionState, (inSession x).session.state = x)
      ∧ (∀ seq : Byte, (atStop .frozen).Executes 0x40 seq ∧ (atStop .frozen).Executes 0x41 seq)
      ∧ (atStop .frozen).session.state = .frozen
      ∧ (atStop .frozen).work
        = some { request := readReq, entry := 0, stage := .stop (gov { anyImage with trigger := 2 }) } :=
  ⟨fun _ code seq => executes_of_none rfl rfl code seq, fun _ => rfl,
    fun seq => ⟨executes_of_none rfl rfl _ seq, executes_of_none rfl rfl _ seq⟩, rfl, rfl⟩

theorem witness_limits_and_timebase :
    (∀ code : Byte, State.reset.Executes code 0) ∧ (0#16).toNat = 0 ∧ (257#16).toNat > 256 ∧ (2#8).toNat ≥ 2
      ∧ 1 ≤ (1#16).toNat ∧ (256#16).toNat ≤ 256 ∧ (1#8).toNat ≤ 1 :=
  ⟨fun code => executes_of_none rfl rfl code 0, by decide, by decide, by decide, by decide, by decide, by decide⟩

theorem witness_ticks :
    State.reset.porstAsserted = false ∧ State.reset.timeBase.prescaler ≤ State.reset.timeBase.phase + 1
      ∧ (∃ b : TimeBase, b.phase + 1 < b.prescaler ∧ b.prescaler = 2)
      ∧ State.reset.timeBase.waiting = none ∧ State.reset.stall = none
      ∧ ({ TimeBase.porst with waiting := some { prescaler := 256, load := none } } : TimeBase).waiting
        = some { prescaler := 256, load := none }
      ∧ (atStall (.running 1)).stall
        = some ({ request := readReq, entry := 0, stage := .stalled (gov (overlayImage 0 1)) 10 (.running 1) },
            gov (overlayImage 0 1), 10, .running 1) ∧ 2 ≤ (2#16).toNat :=
  ⟨rfl, by decide, ⟨{ TimeBase.porst with prescaler := 2 }, by decide⟩, rfl, rfl, rfl, by decide +kernel, by decide⟩

/-- The block after PORST has no expiry due, and nor has a stall with one tick left. -/
theorem witness_no_expiry_due : State.reset.NoExpiryDue ∧ (atStall (.running 1)).NoExpiryDue := by
  refine ⟨⟨by decide +kernel, no_stall rfl⟩, by decide +kernel, fun w g n timer h => ?_⟩
  have hs : (atStall (.running 1)).stall
      = some ({ request := readReq, entry := 0, stage := .stalled (gov (overlayImage 0 1)) 10 (.running 1) },
          gov (overlayImage 0 1), 10, .running 1) := by decide +kernel
  rw [hs] at h
  cases h
  decide

theorem witness_get_status :
    State.reset.Executes 0x02 0 ∧ (atStall .unlimited).Executes 0x02 0 ∧ State.reset.stall = none
      ∧ (atStall .unlimited).stall.isSome = true ∧ State.reset.QueueLegal
      ∧ ({ State.reset with queue := queueRun .ring 2 } : State).QueueLegal ∧ (withStored).HistoryBounded
      ∧ withStored.TimeBaseLegal :=
  ⟨executes_of_none rfl rfl _ _, executes_of_none rfl rfl _ _, rfl, by decide +kernel, .inl rfl, .inr (by decide),
    Nat.zero_le _, by decide, by decide, by decide, fun p h => (by cases h)⟩

theorem witness_clear_unit :
    (∀ x : SessionState, (inSession x).Executes 0x03 0) ∧ (inSession .frozen).mode = .bypass
      ∧ (inSession .frozen).session.state = .frozen ∧ (inSession .armed).session.state = .armed
      ∧ (atPort .active false false).mode ≠ .bypass :=
  ⟨fun _ => executes_of_none rfl rfl _ _, rfl, rfl, rfl, by decide⟩

theorem witness_acceptance :
    ((atStall .unlimited).work ≠ none ∧ ({ State.reset with srstAsserted := true } : State).srstAsserted = true)
      ∧ (State.reset.work = none ∧ State.reset.srstAsserted = false ∧ State.reset.porstAsserted = false
          ∧ ((atMemory true .unlimited).track 1).state = .free ∧ (atMemory true .unlimited).work = none
          ∧ ∀ u : Tag, u < 1 → ((atMemory true .unlimited).track u).state ≠ .free)
      ∧ (∀ t : Tag, (({ State.reset with tracker := { Tracker.porst with
            entries := Vector.replicate 16 { TrackerEntry.porst with state := .orphaned } } } : State).track t).state ≠ .free)
      ∧ (readReq.address.extractLsb' 0 3 = 0 ∧ 1 ≤ readReq.beats
          ∧ (readReq.address.extractLsb' 3 3).toNat + readReq.beats ≤ 8)
      ∧ badReq.address.extractLsb' 0 3 ≠ 0 ∧ ({ readReq with beats := 0 } : Request).beats = 0
      ∧ ((0x70#40).extractLsb' 3 3).toNat + 3 > 8 := by decide +kernel

theorem witness_classify :
    (∀ m : Mode, (atWork m .idle 0 readReq .lookup).work = some { request := readReq, entry := 0, stage := .lookup })
      ∧ (atWork .draining .idle 0 readReq .lookup).mode ≠ .active
      ∧ (atWork .active .idle 0 readReq .lookup).governing readReq = none
      ∧ ((atWork .active .idle 0 readReq .lookup).setMatch 31
          { MatchEntry.porst with state := .on, image := anyImage }).governing readReq = some 31 :=
  ⟨fun _ => rfl, by decide, by decide +kernel, by decide +kernel⟩

theorem witness_steps_of_the_classifier :
    (∀ (m : Mode) (x : SessionState) (remaining : BitVec 8) (st : Stage),
        (atWork m x remaining readReq st).work = some { request := readReq, entry := 0, stage := st }
          ∧ (atWork m x remaining readReq st).mode = m ∧ (atWork m x remaining readReq st).session.state = x
          ∧ (atWork m x remaining readReq st).session.remaining = remaining)
      ∧ anyImage.action = 0x00#8 ∧ slotImage.action = 0x01#8 ∧ queueImage.action = 0x02#8
      ∧ (overlayImage 0 1).action = 0x03#8 ∧ (gov anyImage).renewed = false ∧ (gov anyImage).stopIgnored = false
      ∧ ({ gov anyImage with renewed := true } : Governor).renewed = true
      ∧ ({ gov anyImage with stopIgnored := true } : Governor).stopIgnored = true :=
  ⟨fun _ _ _ _ => ⟨rfl, rfl, rfl, rfl⟩, by decide, by decide, by decide, by decide, rfl, rfl, rfl, rfl⟩

theorem witness_capture_slot :
    slotImage.captureSlot.toNat = (63 : SlotId).val
      ∧ ((atWork .active .running 0 readReq (.action (gov slotImage))).slot 63).owner = .unit
      ∧ (((atWork .active .stopping 1 readReq (.action (gov slotImage))).setSlot 63
          { Slot.porst with owner := .tool }).slot 63).owner = .tool := by decide +kernel

theorem witness_note_and_notice :
    State.reset.history.length < 32 ∧ 32 ≤ (List.replicate 32 ({ slot := 63, sequence := 0 } : Note)).length := by decide

theorem witness_capture_queue :
    ((atQueue .stopWhenFull 1).queue.occupancy < (atQueue .stopWhenFull 1).queue.count
        ∧ (62 : SlotId).val = (atQueue .stopWhenFull 1).queue.first
          + ((atQueue .stopWhenFull 1).queue.oldest + (atQueue .stopWhenFull 1).queue.occupancy)
            % (atQueue .stopWhenFull 1).queue.count
        ∧ ((atQueue .stopWhenFull 1).slot 62).owner = .unit)
      ∧ ((atQueue .ring 2).queue.count ≤ (atQueue .ring 2).queue.occupancy ∧ (atQueue .ring 2).queue.mode = .ring
        ∧ (63 : SlotId).val = (atQueue .ring 2).queue.first + (atQueue .ring 2).queue.oldest
        ∧ ((atQueue .ring 2).slot 63).owner = .unit)
      ∧ ((atQueue .stopWhenFull 2).queue.mode = .stopWhenFull
        ∧ (atQueue .stopWhenFull 2).queue.count ≤ (atQueue .stopWhenFull 2).queue.occupancy)
      ∧ (atQueue .ring 2).queue.count ≠ 0 ∧ (atWork .active .running 0 readReq (.action (gov queueImage))).queue.count = 0
      ∧ (((atQueue .ring 2).setSlot 63 { Slot.porst with owner := .tool }).slot 63).owner = .tool := by decide +kernel

theorem witness_overlay_serving :
    ((overlayImage 0 0).runLength.toNat ≤ 4 ∧ (10#8 : Byte) = (overlayImage 0 0).runA ∧ Bank.a = .a
        ∧ (10#8).toNat + 2 ^ (overlayImage 0 0).runLength.toNat ≤ 64)
      ∧ ((overlayImage 0 0).runB ≠ 0 ∧ Bank.b = .b ∧ (11#8).toNat + 1 = (overlayImage 0 0).runB.toNat)
      ∧ ({ anyImage with runA := 48, runLength := 4 } : EntryImage).runA.toNat + 2 ^ 4 ≤ 64
      ∧ ({ anyImage with group := 3 } : EntryImage).group.toNat ≤ 3
      ∧ (readReq.kind = .read ∧ 8 * ((readReq.address.extractLsb' 3 3).toNat + 1) + 7 < 64 ∧ 1 < readReq.beats)
      ∧ (writeReq.kind = .write ∧ (writeReq.address.extractLsb' 3 3).toNat ≤ (15 : Fin 64).val / 8
        ∧ (15 : Fin 64).val / 8 < (writeReq.address.extractLsb' 3 3).toNat + writeReq.beats
        ∧ writeReq.write[(15 : Fin 64).val / 8 - (writeReq.address.extractLsb' 3 3).toNat]?
          = some { enables := 0x81#8, data := 0x1122334455667788#64 }
        ∧ (0x81#8 : Byte).getLsbD ((15 : Fin 64).val % 8) = true
        ∧ (0x81#8 : Byte).getLsbD ((9 : Fin 64).val % 8) = false) := by decide +kernel

theorem witness_overlay_action :
    (10 : SlotId) = servingSlotOf (overlayImage 1 1) (atStall .unlimited).banks[groupOf (overlayImage 1 1)] readReq
      ∧ (overlayImage 1 0).writePolicy = 0x01#8 ∧ (overlayImage 0 0).writePolicy ≠ 0x01#8
      ∧ (overlayImage 0 1).fallback = 0x01#8 ∧ (overlayImage 0 0).fallback ≠ 0x01#8
      ∧ ((atWork .active .idle 0 readReq (.action (gov (overlayImage 0 0)))).slot 10).owner = .unit
      ∧ ((atStall .unlimited).slot 10).owner = .tool := by decide +kernel

theorem witness_steps_not_next :
    State.reset.work = none
      ∧ (∀ w, (atWork .active .running 0 readReq (.action (gov slotImage))).work = some w →
          w.stage ≠ .lookup ∧ (∀ g, w.stage ≠ .start g ∧ w.stage ≠ .notice g ∧ w.stage ≠ .stop g ∧ w.stage ≠ .retire g)
            ∧ (∀ g note, w.stage ≠ .append g note) ∧ ∀ g, w.stage = .action g → g.image.action = 0x01#8)
      ∧ ∀ w g, (atWork .active .running 0 readReq (.action (gov (overlayImage 0 1)))).work = some w →
          w.stage = .action g → g.image.action ≠ 0x01#8 := by
  refine ⟨rfl, ?_, ?_⟩
  · intro w h
    injection h with h
    subst h
    refine ⟨by simp, fun g => ⟨by simp, by simp, by simp, by simp⟩, fun g note => by simp, fun g h => ?_⟩
    injection h with h
    subst h
    rfl
  · intro w g h hg
    injection h with h
    subst h
    injection hg with hg
    subst hg
    decide

theorem witness_stall_expiry :
    (atStall .expiryDue).stall
        = some ({ request := readReq, entry := 0, stage := .stalled (gov (overlayImage 0 1)) 10 .expiryDue },
            gov (overlayImage 0 1), 10, .expiryDue)
      ∧ ∀ w g n timer, State.reset.stall = some (w, g, n, timer) → timer ≠ .expiryDue :=
  ⟨by decide +kernel, no_stall rfl⟩

theorem witness_mport_send :
    State.reset.tracker.sendList = []
      ∧ (State.reset.setSendList [{ entry := 15, request := readReq }]).tracker.sendList
        = { entry := 15, request := readReq } :: [] := by decide +kernel

theorem witness_memory_response :
    (atMemory true .unlimited).porstAsserted = false
      ∧ (((atMemory true .unlimited).track 0).state = .forwarded ∧ ((atMemory true .unlimited).track 0).sent = true)
      ∧ (((atPort .active false true).track 0).state = .held ∧ ((atPort .active false true).track 0).orphan = true)
      ∧ ((State.reset.setTrack 15 { TrackerEntry.porst with state := .orphaned }).track 15).state = .orphaned
      ∧ (State.reset.track 15).state = .free
      ∧ (((atPort .active false false).track 0).state = .held ∧ ((atPort .active false false).track 0).orphan = false)
      ∧ (((atMemory false .unlimited).track 0).state = .forwarded ∧ ((atMemory false .unlimited).track 0).sent = false)
      ∧ ((atMemory true .unlimited).track 0).timer ≠ .expiryDue
      ∧ ∃ t, exec (.responseLimitExpiry 0) (atMemory true .expiryDue) = .next t :=
  ⟨by decide +kernel, by decide +kernel, by decide +kernel, by decide +kernel, by decide +kernel, by decide +kernel,
    by decide +kernel, by decide +kernel, ⟨_, rfl⟩⟩

theorem witness_response_expiry :
    (((atMemory true .expiryDue).track 0).state = .forwarded ∧ ((atMemory true .expiryDue).track 0).timer = .expiryDue)
      ∧ ((atMemory true (.running 1)).track 0).timer ≠ .expiryDue ∧ (State.reset.track 0).state ≠ .forwarded := by
  decide +kernel

theorem witness_arbiter :
    (∀ (src : SourceId) (t : Tag) (rest : List Tag), State.reset.order src = t :: rest →
        (State.reset.track t).state ≠ .held)
      ∧ (atPort .draining true false).order 5 = 0 :: []
      ∧ (((atPort .draining true false).track 0).state = .held ∧ ((atPort .draining true false).track 0).source = 5
        ∧ ((atPort .draining true false).track 0).buffer = some { status := .done, beats := [0x55#64] })
      ∧ ∀ (other : SourceId) (u : Tag) (tail : List Tag), other ≠ 5 →
          (atPort .draining true false).order other = u :: tail → ((atPort .draining true false).track u).state = .held →
          ((5 : SourceId).val + 63 - (atPort .draining true false).tracker.pointer.val) % 64
            < (other.val + 63 - (atPort .draining true false).tracker.pointer.val) % 64 := by
  have hempty : ∀ src : SourceId, State.reset.order src = [] := by decide +kernel
  have hother : ∀ src : SourceId, src ≠ 5 → (atPort .draining true false).order src = [] := by decide +kernel
  refine ⟨fun src t rest h => ?_, by decide +kernel, by decide +kernel, fun other u tail hne h => ?_⟩
  · rw [hempty] at h
    cases h
  · rw [hother other hne] at h
    cases h

theorem witness_srst :
    (atPort .draining true false).mode = .draining
      ∧ (((atMemory true .unlimited).track 0).link = some { slot := 7, sequence := 9 }
        ∧ ((atMemory true .unlimited).slot 7).outcome = .pending)
      ∧ (∀ (e : Tag), (State.reset.track e).link = none)
      ∧ ({ request := readReq, entry := 0, stage := .retire (gov { anyImage with oneShot := 1 }) } : Work).stage.governor
        = some (gov { anyImage with oneShot := 1 })
      ∧ (gov { anyImage with oneShot := 1 }).image.oneShot = 0x01#8 ∧ (gov { anyImage with oneShot := 1 }).renewed = false
      ∧ ({ gov { anyImage with oneShot := 1 } with renewed := true } : Governor).renewed = true := by decide +kernel

/-- A step that keeps an invariant may start here: the block after PORST with a TICK waiting. -/
def tickWaits : State := { State.reset with pending := [.tick] }

theorem witness_invariants_of_ranges :
    (∃ t, step tickWaits = .next t) ∧ tickWaits.HistoryBounded ∧ tickWaits.TimeBaseLegal ∧ tickWaits.SessionLegal
      ∧ tickWaits.QueueLegal ∧ tickWaits.QueueRunUnitOwned :=
  ⟨⟨_, rfl⟩, Nat.zero_le _, ⟨by decide, by decide, by decide, fun p h => (by cases h)⟩,
    ⟨fun h => (by cases h), fun _ => rfl⟩, .inl rfl, fun n _ => by revert n; decide +kernel⟩

theorem witness_invariants_of_records_and_entries : tickWaits.RecordsLegal ∧ tickWaits.EntriesChecked := by
  refine ⟨⟨?_, fun w h => (by cases h)⟩, fun i h => ?_⟩
  · decide +kernel
  · have : (tickWaits.matchEntry i).state = .off := by
      revert i
      decide +kernel
    rw [this] at h
    cases h

theorem witness_invariants_of_tracker_and_mode : tickWaits.TrackerLegal ∧ tickWaits.ModeLegal := by
  have hk : ∀ t : Tag, tickWaits.track t = TrackerEntry.porst := by decide +kernel
  have ho : ∀ src : SourceId, tickWaits.order src = [] := by decide +kernel
  refine ⟨⟨⟨fun t => ?_, fun t => ?_, fun w h => (by cases h)⟩, fun src => ?_, ?_, fun t => ?_⟩, fun _ => by decide +kernel,
    fun h => (by cases h), fun h => (by cases h)⟩
  · rw [hk]
    exact ⟨by decide, by decide, by decide, by decide, by decide⟩
  · rw [hk]
    exact ⟨fun h => (by cases h), fun h => (by obtain ⟨w, h, _⟩ := h; cases h)⟩
  · rw [ho]
    refine ⟨List.nodup_nil, fun t => ?_⟩
    rw [hk]
    simp [TrackerEntry.listed, TrackerEntry.porst]
  · exact List.nodup_nil
  · rw [hk]
    exact ⟨fun h => (by cases h), fun h => (by cases h.1)⟩

/-- What a response sent comes to is spelled by some predicate, and heads leave, entries join and records take numbers. -/
theorem witness_order_lists_and_capture_numbers :
    (∀ s t : State, ∃ sends : SourceId → Tag → Prop, ∀ src e, sends src e ↔ Instr.arbiterGrant = .arbiterGrant
        ∧ s.order src = e :: t.order src ∧ (s.track e).state = .held
        ∧ t.sportResponse = (s.track e).buffer.map fun b =>
            { source := (s.track e).source, status := b.status, beats := b.beats })
      ∧ leaves .arbiterGrant (atPort .active false false) (fun t => t.order 5 == [] && t.sportResponse.isSome) = true
      ∧ leaves (.requestAccept badReq) State.reset (fun t => t.order 5 == [0] && (t.track 0).source == 5) = true
      ∧ leaves .captureQueueAction (atQueue .ring 2) (fun t => t.captureSeq == 1 && (t.slot 63).sequence == 0) = true :=
  ⟨fun _ _ => ⟨_, fun _ _ => Iff.rfl⟩, by decide +kernel, by decide +kernel, by decide +kernel⟩

theorem witness_tool_owned_slot :
    leaves .tick (atStall (.running 1))
      (fun t => (t.slot 10).owner == .tool && ((atStall (.running 1)).slot 10).owner == .tool) = true := by decide +kernel

theorem witness_frames_of_path_and_link :
    commandFields .tick = none ∧ (∃ t, exec .tick State.reset = .next t) ∧ (∃ t, exec .resync State.reset = .next t)
      ∧ (∃ t, exec (.linkFault (Period.mk [])) State.reset = .next t) ∧ (State.reset.slot 63).owner = .unit
      ∧ (∃ t, exec (.writeSlot 0 63 0 64 (Vector.replicate 64 0xAB)) State.reset = .next t) :=
  ⟨rfl, ⟨_, rfl⟩, ⟨_, rfl⟩, ⟨_, rfl⟩, by decide +kernel, ⟨_, rfl⟩⟩

end Sys2Proof.Machine.Tests
end

section
/-! PROOFS. The Match Table: the tests, the governing entry, and the entry commands (O13, O14, O15). -/

namespace Sys2Proof.Machine

/-- The kind test, by the two access codes that name one kind and the one that names both (R3). -/
theorem kindTest_iff (m : EntryImage) (r : Request) :
    kindTest m r = true ↔ m.access = 0x02#8 ∨ (r.kind = .read ∧ m.access = 0x00#8)
      ∨ (r.kind = .write ∧ m.access = 0x01#8) := by
  unfold kindTest
  cases r.kind <;> simp [or_comm]

/-- The address test, by the number of a beat whose address agrees (R5). -/
theorem addressTest_iff (m : EntryImage) (r : Request) :
    addressTest m r = true ↔ ∃ beat : Nat, beat < r.beats ∧ ∀ k : Nat, 3 ≤ k → k < 40 →
      m.careMask.getLsbD k = true → (r.address + BitVec.ofNat 40 (8 * beat)).getLsbD k = m.base.getLsbD k := by
  simp only [addressTest, beatAddresses, List.any_map, List.any_eq_true, List.mem_range, Function.comp_apply,
    beatAgrees_iff]

/-- A request matches an entry that is ON and passes the three tests (R6). -/
theorem matchesRequest_iff (e : MatchEntry) (r : Request) :
    e.matchesRequest r = true ↔ e.state = .on ∧ kindTest e.image r = true ∧ sourceTest e.image r = true
      ∧ addressTest e.image r = true := by
  simp [MatchEntry.matchesRequest, and_assoc]

/-- Settles O13: each test by its bits, and the governing entry as the first index that passes them. -/
theorem governingEntryIsTheLowestThatMatches : Obligations.GoverningEntryIsTheLowestThatMatches := by
  intro s r
  refine ⟨fun e => ?_, fun i => find_finRange _ i, ?_⟩
  · rw [matchesRequest_iff, kindTest_iff, sourceTest_iff, addressTest_iff]
  · simp [State.governing, List.find?_eq_none]

/-! ### The entry commands -/

theorem leBytes_five (x : BitVec 40) :
    leBytes 5 x = [x.extractLsb' 0 8, x.extractLsb' 8 8, x.extractLsb' 16 8, x.extractLsb' 24 8, x.extractLsb' 32 8] :=
  rfl

/-- The READ_ENTRY payload with its two counts byte by byte (11.6). -/
theorem entryBytes_eq (index : Byte) (e : MatchEntry) :
    entryBytes index e = [index, if e.state = .on then 0x01#8 else 0x00#8] ++ imageBytes e.image
      ++ [e.hits.setWidth 8, (e.hits >>> 8).setWidth 8, e.misses.setWidth 8, (e.misses >>> 8).setWidth 8] := by
  have hstate : e.state.code = if e.state = .on then 0x01#8 else 0x00#8 := by cases e.state <;> rfl
  simp only [entryBytes, hstate, leBytes_two, List.append_assoc, List.cons_append, List.nil_append]

section Frames
variable {s t : State} {code seq index : Byte} {a : Answer} (run : Fin 32 → State → State × Answer)

/-- An entry command whose index names no entry is refused with INDEX (R8). -/
theorem entryCommand_of_ge (hx : s.Executes code seq) (hi : index.toNat ≥ 32) :
    (.next (linkExecute code seq (withEntry index run) s) : Host.Outcome State Fault Refusal)
      = .next (s.store code seq (badArg .index)) := by
  rw [linkExecute_of_executes hx, withEntry_of_ge hi]

/-- An entry command whose index names an entry runs on it, and its answer is stored (R8, R151). -/
theorem entryCommand_of_eq {i : Fin 32} (hx : s.Executes code seq) (hi : index.toNat = i.val) (hr : run i s = (t, a)) :
    (.next (linkExecute code seq (withEntry index run) s) : Host.Outcome State Fault Refusal)
      = .next (t.store code seq a) := by
  rw [linkExecute_of_executes hx, withEntry_of_eq hi, hr]

end Frames

section Entry
variable {s : State} {i : Fin 32}

theorem writeEntry_of_on (image : EntryImage) (h : (s.matchEntry i).state = .on) :
    writeEntry image i s = (s, answer .busy) := by
  rw [writeEntry, h]

theorem writeEntry_of_off (image : EntryImage) (h : (s.matchEntry i).state = .off) :
    writeEntry image i s
      = (s.setMatch i { state := .off, image := image, hits := 0, misses := 0 }, answer .ok) := by
  rw [writeEntry, h]

theorem readEntry_eq {index : Byte} (h : index.toNat = i.val) :
    readEntry i s = (s, answerWith .ok (entryBytes index (s.matchEntry i))) := by
  rw [readEntry, ← h, BitVec.ofNat_toNat, BitVec.setWidth_eq]

theorem enableEntry_of_on (h : (s.matchEntry i).state = .on) : enableEntry i s = (s, answer .ok) := by
  rw [enableEntry, h]

theorem enableEntry_of_failure {reason : Reason} (h : (s.matchEntry i).state = .off)
    (hf : s.enableFailure i = some reason) : enableEntry i s = (s, badArg reason) := by
  rw [enableEntry, h]
  simp only [hf]

theorem enableEntry_of_checked (h : (s.matchEntry i).state = .off) (hf : s.enableFailure i = none) :
    enableEntry i s = (s.turnOn i, answer .ok) := by
  rw [enableEntry, h]
  simp only [hf]

/-- An entry is stalled on where the stall is of a request that it governs (R17). -/
theorem stalledBy_iff : s.stalledBy i = true ↔ ∃ w g n timer, s.stall = some (w, g, n, timer) ∧ g.index = i := by
  unfold State.stalledBy
  cases s.stall with
  | none => simp
  | some st =>
    obtain ⟨w, g, n, timer⟩ := st
    simp

theorem disableEntry_of_off (h : (s.matchEntry i).state = .off) : disableEntry i s = (s, answer .ok) := by
  rw [disableEntry, h]

theorem disableEntry_of_stalled (h : (s.matchEntry i).state = .on) (hs : s.stalledBy i = true) :
    disableEntry i s = (s, answer .busy) := by
  rw [disableEntry, h]
  exact if_pos hs

theorem disableEntry_of_not_stalled (h : (s.matchEntry i).state = .on) (hs : ¬ s.stalledBy i = true) :
    disableEntry i s = (s.turnOff i, answer .ok) := by
  rw [disableEntry, h]
  exact if_neg hs

end Entry

/-- Settles O14: each command on an index out of range and on an entry, and the image field by field. -/
theorem writeReadAndClearOfAnEntry : Obligations.WriteReadAndClearOfAnEntry := by
  refine ⟨fun s seq index image hx => ⟨fun hi => ?_, fun i hi => ⟨fun hon => ?_, fun hoff => ?_⟩⟩,
    fun s seq index => ⟨fun hx => ⟨fun hi => ?_, fun i hi => ?_⟩, fun hx => ⟨fun hi => ?_, fun i hi => ?_⟩⟩,
    fun m => ?_⟩
  · exact entryCommand_of_ge _ hx hi
  · exact entryCommand_of_eq _ hx hi (writeEntry_of_on image hon)
  · exact entryCommand_of_eq _ hx hi (writeEntry_of_off image hoff)
  · exact entryCommand_of_ge _ hx hi
  · rw [← entryBytes_eq]
    exact entryCommand_of_eq _ hx hi (readEntry_eq hi)
  · exact entryCommand_of_ge _ hx hi
  · exact entryCommand_of_eq _ hx hi rfl
  · rw [imageBytes, leBytes_five, leBytes_five]
    rfl

/-! ### The mark of an entry enabled again (R18) -/

/-- The mark that the enabling of entry `i` puts on the governing entry of a request under classification. -/
def Governor.renewedBy (i : Fin 32) (g : Governor) : Governor := if g.index = i then { g with renewed := true } else g

/-- ENABLE_ENTRY on the request under classification: the mark is put in its stage, and nothing else changes. -/
def renewedWork (i : Fin 32) (work : Option Work) : Option Work :=
  work.map fun w => { w with stage := w.stage.mapGovernor (Governor.renewedBy i) }

theorem turnOn_eq (s : State) (i : Fin 32) :
    s.turnOn i = (s.setMatch i { s.matchEntry i with state := .on }).setWork (renewedWork i s.work) := rfl

theorem mapGovernor_of_fixed {f : Governor → Governor} {stage : Stage}
    (h : ∀ g, stage.governor = some g → f g = g) : stage.mapGovernor f = stage := by
  cases stage with
  | lookup => rfl
  | _ => simp only [Stage.mapGovernor, h _ rfl]

/-- A request that another entry governs, or none, is not marked. -/
theorem renewedWork_of_ne {i : Fin 32} {work : Option Work}
    (h : ∀ w g, work = some w → w.stage.governor = some g → g.index ≠ i) : renewedWork i work = work := by
  cases work with
  | none => rfl
  | some w =>
    have hfixed : w.stage.mapGovernor (Governor.renewedBy i) = w.stage :=
      mapGovernor_of_fixed fun g hg => if_neg (h w g rfl hg)
    simp only [renewedWork, Option.map_some, hfixed]

/-- A request that the entry governs keeps its stage, its governing entry marked. -/
theorem renewedWork_of_eq {i : Fin 32} {w : Work} {g : Governor} (hg : g.index = i) {place : Governor → Stage}
    (hstage : w.stage = place g) (hplace : ∀ f, (place g).mapGovernor f = place (f g)) :
    renewedWork i (some w) = some { w with stage := place { g with renewed := true } } := by
  simp only [renewedWork, Option.map_some, hstage, hplace, Governor.renewedBy, hg, if_true]

/-- Settles O15: by the state of the entry, then by the checks and by the stall. -/
theorem enableAndDisableEntryTurnItOnAndOff : Obligations.EnableAndDisableEntryTurnItOnAndOff := by
  refine ⟨fun s seq index hx => ⟨fun hi => ?_, fun i hi => ⟨fun hon => ?_, fun hoff => ⟨fun reason hf => ?_,
      fun hf => ⟨renewedWork i s.work, ?_, renewedWork_of_ne, fun w g place hw hg hplace hstage => ?_⟩⟩⟩⟩,
    fun s seq index hx => ⟨fun hi => ?_, fun i hi => ⟨fun hoff => ?_, fun hon => ⟨fun w g n timer hs hg => ?_,
      fun hs => ?_⟩⟩⟩⟩
  · exact entryCommand_of_ge _ hx hi
  · exact entryCommand_of_eq _ hx hi (enableEntry_of_on hon)
  · exact entryCommand_of_eq _ hx hi (enableEntry_of_failure hoff hf)
  · rw [← turnOn_eq]
    exact entryCommand_of_eq _ hx hi (enableEntry_of_checked hoff hf)
  · rw [hw]
    refine renewedWork_of_eq hg hstage fun f => ?_
    rcases hplace with rfl | rfl | rfl | rfl | rfl | ⟨note, rfl⟩ | ⟨n, timer, rfl⟩ <;> rfl
  · exact entryCommand_of_ge _ hx hi
  · exact entryCommand_of_eq _ hx hi (disableEntry_of_off hoff)
  · exact entryCommand_of_eq _ hx hi (disableEntry_of_stalled hon (stalledBy_iff.mpr ⟨w, g, n, timer, hs, hg⟩))
  · have hfree : ¬ s.stalledBy i = true := fun h => by
      obtain ⟨w, g, n, timer, hstall, hg⟩ := stalledBy_iff.mp h
      exact hs w g n timer hstall hg
    exact entryCommand_of_eq _ hx hi (disableEntry_of_not_stalled hon hfree)

end Sys2Proof.Machine
end

section
/-! PROOFS. The checks of ENABLE_ENTRY and the slots an entry names (O16). -/

namespace Sys2Proof.Machine

theorem inRun_iff (q : Queue) (n : Nat) : q.inRun n = true ↔ q.first ≤ n ∧ n < q.first + q.count := by
  simp [Queue.inRun]

/-! ### The slots an entry names (R16) -/

theorem runBFirst_of_ne {m : EntryImage} (h : m.runB ≠ 0#8) : runBFirst m = some (m.runB.toNat - 1) := if_neg h

theorem mem_overlaySlots (m : EntryImage) (n : Nat) :
    n ∈ overlaySlots m ↔ (m.runA.toNat ≤ n ∧ n < m.runA.toNat + linesOf m.runLength)
      ∨ (m.runB ≠ 0#8 ∧ m.runB.toNat - 1 ≤ n ∧ n < m.runB.toNat - 1 + linesOf m.runLength) := by
  by_cases hb : m.runB = 0#8
  · simp [overlaySlots, (runBFirst_eq_none m).mpr hb, mem_runSlots, hb]
  · simp [overlaySlots, runBFirst_of_ne hb, mem_runSlots, hb]

theorem namedSlots_of_captureSlot {m : EntryImage} (h : m.action = 1#8) : namedSlots m = [m.captureSlot.toNat] := by
  simp only [namedSlots, (actionOf_eq_captureSlot _).mpr h]

theorem namedSlots_of_overlay {m : EntryImage} (h : m.action = 3#8) : namedSlots m = overlaySlots m := by
  simp only [namedSlots, (actionOf_eq_overlay _).mpr h]

theorem namedSlots_of_other {m : EntryImage} (h1 : m.action ≠ 1#8) (h3 : m.action ≠ 3#8) : namedSlots m = [] := by
  unfold namedSlots
  split
  · exact absurd ((actionOf_eq_captureSlot _).mp ‹_›) h1
  · exact absurd ((actionOf_eq_overlay _).mp ‹_›) h3
  all_goals rfl

theorem mem_namedSlots (m : EntryImage) (n : Nat) :
    n ∈ namedSlots m ↔ (m.action = 1#8 ∧ n = m.captureSlot.toNat)
      ∨ (m.action = 3#8 ∧ m.runA.toNat ≤ n ∧ n < m.runA.toNat + linesOf m.runLength)
      ∨ (m.action = 3#8 ∧ m.runB ≠ 0#8 ∧ m.runB.toNat - 1 ≤ n ∧ n < m.runB.toNat - 1 + linesOf m.runLength) := by
  by_cases h1 : m.action = 1#8
  · simp [namedSlots_of_captureSlot h1, h1]
  · by_cases h3 : m.action = 3#8
    · simp [namedSlots_of_overlay h3, mem_overlaySlots, h3]
    · simp [namedSlots_of_other h1 h3, h1, h3]

theorem namedByOn_iff (s : State) (n : Nat) :
    s.namedByOn n = true ↔ ∃ j : Fin 32, (s.matchEntry j).state = .on ∧ n ∈ namedSlots (s.matchEntry j).image := by
  simp only [State.namedByOn, any_table, names_iff]

/-! ### What each check of ENABLE_ENTRY looks at (R12 to R16) -/

theorem fieldsInRange_iff (m : EntryImage) :
    fieldsInRange m = true ↔ m.access.toNat ≤ 2 ∧ m.sourceRef.toNat ≤ 63 ∧ m.sourceMask.toNat ≤ 63
      ∧ m.trigger.toNat ≤ 2 ∧ m.oneShot.toNat ≤ 1
      ∧ (m.action = 3#8 → m.group.toNat ≤ 3 ∧ m.runLength.toNat ≤ 4 ∧ m.writePolicy.toNat ≤ 1
          ∧ m.fallback.toNat ≤ 1) := by
  simp only [fieldsInRange, Bool.and_eq_true, Bool.or_eq_true, decide_eq_true_eq, bne_iff_ne, ne_eq, and_assoc,
    actionOf_eq_overlay, imp_iff_not_or]

theorem slotsInRange_iff (m : EntryImage) : slotsInRange m = true ↔ ∀ n ∈ namedSlots m, n ≤ 63 := by
  simp [slotsInRange]

theorem slotsInRange_of_captureSlot {m : EntryImage} (h : m.action = 1#8) :
    slotsInRange m = true ↔ m.captureSlot.toNat ≤ 63 := by
  simp [slotsInRange_iff, namedSlots_of_captureSlot h]

/-- The runs of an OVERLAY entry exist where their last slots do (R13). -/
theorem slotsInRange_of_overlay {m : EntryImage} (h : m.action = 3#8) (hr : m.runLength.toNat ≤ 4) :
    slotsInRange m = true ↔ m.runA.toNat + 2 ^ m.runLength.toNat - 1 ≤ 63
      ∧ (m.runB ≠ 0#8 → m.runB.toNat - 1 + 2 ^ m.runLength.toNat - 1 ≤ 63) := by
  have hpos : 0 < 2 ^ m.runLength.toNat := Nat.two_pow_pos _
  simp only [slotsInRange_iff, namedSlots_of_overlay h, mem_overlaySlots, linesOf_eq_pow _ hr]
  constructor
  · intro hall
    exact ⟨hall _ (.inl ⟨by omega, by omega⟩), fun hb => hall _ (.inr ⟨hb, by omega, by omega⟩)⟩
  · rintro ⟨ha, hb⟩ n (⟨_, hlt⟩ | ⟨hne, _, hlt⟩)
    · omega
    · have := hb hne
      omega

/-- The window's shape, bit by bit (R14). -/
theorem windowShaped_iff (m : EntryImage) :
    windowShaped m = true ↔ ∀ k : Nat, k < 40 → (6 + m.runLength.toNat ≤ k → m.careMask.getLsbD k = true)
      ∧ (3 ≤ k → k < 6 + m.runLength.toNat → m.careMask.getLsbD k = false ∧ m.base.getLsbD k = false) := by
  simp only [windowShaped, windowBits, List.all_eq_true, List.mem_range, Bool.or_eq_true, decide_eq_true_eq]
  refine forall₂_congr fun k _ => ?_
  by_cases hk : 6 + m.runLength.toNat ≤ k
  · have h3 : ¬ k < 3 := by omega
    have hlt : ¬ k < 6 + m.runLength.toNat := by omega
    simp [hk, h3, hlt]
  · have hlt : k < 6 + m.runLength.toNat := by omega
    simp only [hk, hlt, if_false, false_implies, true_and, true_implies, Bool.and_eq_true, Bool.not_eq_true']
    rw [← Nat.not_lt, or_iff_not_imp_left]

theorem runsShare_iff (m : EntryImage) :
    runsShare m = true ↔ m.runB ≠ 0#8 ∧ ∃ k l : Nat, k < linesOf m.runLength ∧ l < linesOf m.runLength
      ∧ m.runA.toNat + k = m.runB.toNat - 1 + l := by
  unfold runsShare
  by_cases hb : m.runB = 0#8
  · simp [(runBFirst_eq_none m).mpr hb, hb]
  · simp only [runBFirst_of_ne hb, any_runSlots, List.contains_iff_mem, mem_runSlots, ne_eq, hb, not_false_eq_true,
      true_and]
    constructor
    · rintro ⟨n, ha, ha', hb, hb'⟩
      exact ⟨n - m.runA.toNat, n - (m.runB.toNat - 1), by omega, by omega, by omega⟩
    · rintro ⟨k, l, hk, hl, heq⟩
      exact ⟨m.runA.toNat + k, by omega, by omega, by omega, by omega⟩

theorem slotConflict_iff (s : State) (i : Fin 32) (m : EntryImage) :
    s.slotConflict i m = true ↔
      (∃ n ∈ namedSlots m, ∃ j : Fin 32, j ≠ i ∧ (s.matchEntry j).state = .on
          ∧ n ∈ namedSlots (s.matchEntry j).image)
        ∨ (∃ n ∈ namedSlots m, s.queue.first ≤ n ∧ n < s.queue.first + s.queue.count)
        ∨ (m.action = 3#8 ∧ m.runB ≠ 0#8 ∧ ∃ k l : Nat, k < linesOf m.runLength ∧ l < linesOf m.runLength
            ∧ m.runA.toNat + k = m.runB.toNat - 1 + l) := by
  simp only [State.slotConflict, Bool.or_eq_true, Bool.and_eq_true, List.any_eq_true, List.mem_finRange, true_and,
    bne_iff_ne, names_iff, inRun_iff, beq_iff_eq, actionOf_eq_overlay, runsShare_iff, or_assoc]

/-! ### The order of the checks (R11) -/

/-- The first check of a list that fails is its head, if that fails, and otherwise the first of the rest. -/
theorem firstFailure_cons (r : Reason) (b : Bool) (rest : List (Reason × Bool)) :
    (((r, b) :: rest).find? fun check => check.2).map Prod.fst
      = if b = true then some r else (rest.find? fun check => check.2).map Prod.fst := by
  cases b <;> rfl

/-- ENABLE_ENTRY's checks are the table's, in its order (R11). -/
theorem enableFailure_eq_first (s : State) (i : Fin 32) {m : EntryImage} (hm : (s.matchEntry i).image = m) :
    s.enableFailure i
      = (([(Reason.action, (actionOf m.action).isNone), (Reason.field, !fieldsInRange m),
          (Reason.slotRange, !slotsInRange m),
          (Reason.windowShape, decide (m.action = 0x03#8) && !windowShaped m),
          (Reason.noQueue, decide (m.action = 0x02#8) && decide (s.queue.count = 0)),
          (Reason.slotConflict, s.slotConflict i m)]).find? fun check => check.2).map Prod.fst := by
  simp only [State.enableFailure, hm, firstFailure_cons, List.find?_nil, Option.map_none, Option.isNone_iff_eq_none,
    Bool.not_eq_true', Bool.and_eq_true, decide_eq_true_eq, actionOf_eq_overlay, actionOf_eq_captureQueue]

/-- Settles O16: the order of the checks, and then what each of them looks at. -/
theorem enableChecksAreMadeInTheOrderOfTheTable : Obligations.EnableChecksAreMadeInTheOrderOfTheTable := by
  intro s i m hm
  refine ⟨enableFailure_eq_first s i hm, actionOf_isNone _, fieldsInRange_iff m, fun hf h3 => ?_,
    slotsInRange_of_captureSlot, fun hother => ?_, slotConflict_iff s i m, linesOf_eq_pow _, mem_namedSlots m,
    namedByOn_iff s⟩
  · obtain ⟨_, _, _, _, _, hover⟩ := (fieldsInRange_iff m).mp hf
    obtain ⟨_, hrun, _⟩ := hover h3
    exact ⟨slotsInRange_of_overlay h3 hrun, windowShaped_iff m⟩
  · rw [slotsInRange_iff, namedSlots_of_other] <;> rcases hother with h | h <;> simp [h]

end Sys2Proof.Machine
end

section
/-! PROOFS. What every step keeps of the slots: the run is UNIT-owned and the ON entries are checked (O54). -/

namespace Sys2Proof.Machine

/-- A state with no queue run has no TOOL-owned slot in it. -/
theorem queueRunUnitOwned_of_unconfigured {s : State} (h : s.queue = Queue.unconfigured) : s.QueueRunUnitOwned := by
  intro n hn
  rw [h, inRun_unconfigured] at hn
  cases hn

/-- A table whose entries are all as after PORST has no ON entry to check. -/
theorem entriesChecked_of_table_porst {s : State} (h : s.table = Vector.replicate 32 MatchEntry.porst) :
    s.EntriesChecked := by
  intro i hi
  have hoff : s.matchEntry i = MatchEntry.porst := by simp [State.matchEntry, h]
  rw [hoff] at hi
  cases hi

/-- The place of the run stays, and no slot that is not TOOL-owned becomes so: the run stays UNIT-owned (R92). -/
theorem queueRunUnitOwned_of_owners {s t : State} (hq : SameRun s t)
    (ho : ∀ n : SlotId, s.queue.inRun n.val = true → (s.slot n).owner = .unit → (t.slot n).owner = .unit)
    (hs : s.QueueRunUnitOwned) : t.QueueRunUnitOwned := by
  intro n hn
  rw [inRun_of_sameRun hq] at hn
  exact ho n hn (hs n hn)

/-- A run that CONFIG_QUEUE accepts holds UNIT-owned slots alone (R82). -/
theorem owner_of_queueFailure_eq_none {s : State} {first count mode watermark : Byte}
    (h : s.queueFailure first count mode watermark = none) (n : SlotId)
    (hn : (queueOf first count mode watermark).inRun n.val = true) : (s.slot n).owner = .unit := by
  have hnone : ¬ (runSlots first.toNat count.toNat).any (fun k => s.ownerAt k == .tool) = true := by
    intro hany
    unfold State.queueFailure at h
    simp only [hany, if_true] at h
    repeat' split at h
    all_goals cases h
  have hown : s.ownerAt n.val = (s.slot n).owner := by simp [State.ownerAt]
  cases ho : (s.slot n).owner with
  | unit => rfl
  | tool =>
    obtain ⟨hfirst, hlast⟩ := (inRun_iff _ _).mp hn
    exact absurd ((any_runSlots _ _ _).mpr ⟨n.val, hfirst, hlast, by simp [hown, ho]⟩) hnone

theorem configQueue_keeps_queueRunUnitOwned (first count mode watermark : Byte) (s : State)
    (hs : s.QueueRunUnitOwned) : (configQueue first count mode watermark s).1.QueueRunUnitOwned := by
  unfold configQueue unconfigureQueue configureQueue
  split
  · split
    · split
      · exact hs
      · exact queueRunUnitOwned_of_unconfigured rfl
    · split
      · exact hs
      · rename_i hnone
        intro n hn
        rw [(reconfigure_slotsStep s _ n).owner]
        exact owner_of_queueFailure_eq_none hnone n hn
  · exact hs

/-- TAKE_SLOT refuses a slot of the run (R52). -/
theorem takeSlot_keeps_queueRunUnitOwned (m : SlotId) (s : State) (hs : s.QueueRunUnitOwned) :
    (takeSlot m s).1.QueueRunUnitOwned := by
  have hq : (takeSlot m s).1.queue = s.queue := by rw [takeSlot_frame]
  refine queueRunUnitOwned_of_owners (sameRun_of_eq hq) (fun n hn ho => ?_) hs
  rcases takeSlot_slot m s n with e | ⟨rfl, hrole, _⟩
  · rw [e, ho]
  · exact absurd (by simp [State.role, hn]) hrole

theorem releaseSlot_keeps_queueRunUnitOwned (m : SlotId) (s : State) (hs : s.QueueRunUnitOwned) :
    (releaseSlot m s).1.QueueRunUnitOwned := by
  have hq : (releaseSlot m s).1.queue = s.queue := by rw [releaseSlot_frame]
  refine queueRunUnitOwned_of_owners (sameRun_of_eq hq) (fun n _ ho => ?_) hs
  rw [(releaseSlot_slot m s n).1, ho, ite_self]

theorem writeSlot_keeps_queueRunUnitOwned (offset length : Byte) (data : Line) (m : SlotId) (s : State)
    (hs : s.QueueRunUnitOwned) : (writeSlot offset length data m s).1.QueueRunUnitOwned := by
  have hq : (writeSlot offset length data m s).1.queue = s.queue := by rw [writeSlot_frame]
  refine queueRunUnitOwned_of_owners (sameRun_of_eq hq) (fun n _ ho => ?_) hs
  rcases writeSlot_slot offset length data m s n with e | ⟨_, _, _, e⟩ <;> rw [e, ho]

theorem withSlot_keeps {inv : State → Prop} (slot : Byte) (run : SlotId → State → State × Answer) {s : State}
    (hs : inv s) (hr : ∀ n, inv (run n s).1) : inv (withSlot slot run s).1 := by
  rcases withSlot_cases slot run s with e | ⟨n, _, e⟩ <;> rw [e]
  · exact hs
  · exact hr n

theorem withEntry_keeps {inv : State → Prop} (index : Byte) (run : Fin 32 → State → State × Answer) {s : State}
    (hs : inv s) (hr : ∀ i, inv (run i s).1) : inv (withEntry index run s).1 := by
  rcases withEntry_cases index run s with e | ⟨i, _, e⟩ <;> rw [e]
  · exact hs
  · exact hr i

theorem clearUnit_keeps {inv : State → Prop} {s : State} (hs : inv s) (hc : inv s.clearUnit) :
    inv (clearUnit s).1 := by
  unfold clearUnit
  split
  · exact hc
  · exact hs

/-- Every command keeps the queue run UNIT-owned: the commands that move the run or change an owner check it, and the others
do neither (R92). -/
theorem exec_keeps_queueRunUnitOwned (c : Instr) (s t : State) (hs : s.QueueRunUnitOwned) (h : exec c s = .next t) :
    t.QueueRunUnitOwned := by
  have hlink : ∀ (x : State) l, x.QueueRunUnitOwned → ({ x with toolLink := l } : State).QueueRunUnitOwned :=
    fun _ _ hx => hx
  have hrest : KeepsRun c → KeepsOwners c → t.QueueRunUnitOwned := fun hrun howners =>
    queueRunUnitOwned_of_owners (exec_sameRun c s t hrun h)
      (fun n _ ho => by rw [(exec_slotsStep c s t howners h n).owner, ho]) hs
  cases c
  case porst => cases h; exact queueRunUnitOwned_of_unconfigured rfl
  case clearUnit seq =>
    cases h
    exact linkExecute_keeps hlink _ _ _ hs (clearUnit_keeps hs (queueRunUnitOwned_of_unconfigured rfl))
  case configQueue seq first count mode watermark =>
    cases h
    exact linkExecute_keeps hlink _ _ _ hs (configQueue_keeps_queueRunUnitOwned _ _ _ _ s hs)
  case takeSlot seq slot =>
    cases h
    exact linkExecute_keeps hlink _ _ _ hs (withSlot_keeps _ _ hs fun n => takeSlot_keeps_queueRunUnitOwned n s hs)
  case releaseSlot seq slot =>
    cases h
    exact linkExecute_keeps hlink _ _ _ hs (withSlot_keeps _ _ hs fun n => releaseSlot_keeps_queueRunUnitOwned n s hs)
  case writeSlot seq slot offset length data =>
    cases h
    exact linkExecute_keeps hlink _ _ _ hs
      (withSlot_keeps _ _ hs fun n => writeSlot_keeps_queueRunUnitOwned _ _ _ n s hs)
  all_goals exact hrest trivial trivial

/-- Every command keeps every ON entry checked: ENABLE_ENTRY and CONFIG_QUEUE check what they bring in, and no other turns an
entry ON or moves the run (R11 to R16, R82). -/
theorem exec_keeps_entriesChecked (c : Instr) (s t : State) (hs : s.EntriesChecked) (h : exec c s = .next t) :
    t.EntriesChecked := by
  have hlink : ∀ (x : State) l, x.EntriesChecked → ({ x with toolLink := l } : State).EntriesChecked :=
    fun _ _ hx => hx
  have hrest : TurnsNoneOn c → KeepsRun c → t.EntriesChecked := fun hnone hrun =>
    entriesChecked_of_tableStep (exec_tableStep c s t hnone h) (exec_sameRun c s t hrun h) hs
  cases c
  case porst => cases h; exact entriesChecked_of_table_porst rfl
  case clearUnit seq =>
    cases h
    exact linkExecute_keeps hlink _ _ _ hs (clearUnit_keeps hs (entriesChecked_of_table_porst rfl))
  case configQueue seq first count mode watermark =>
    cases h
    exact linkExecute_keeps hlink _ _ _ hs (configQueue_keeps_entriesChecked _ _ _ _ s hs)
  case enableEntry seq index =>
    cases h
    exact linkExecute_keeps hlink _ _ _ hs (withEntry_keeps _ _ hs fun i => enableEntry_keeps_entriesChecked i s hs)
  all_goals exact hrest trivial trivial

/-- Settles O54: both invariants go command by command, and a step is one command. -/
theorem everyStepKeepsTheSlotsApart : Obligations.EveryStepKeepsTheSlotsApart :=
  ⟨keptByEveryStep_of_exec (fun _ _ hs => hs) exec_keeps_queueRunUnitOwned,
    keptByEveryStep_of_exec (fun _ _ hs => hs) exec_keeps_entriesChecked⟩

end Sys2Proof.Machine
end

section
/-! PROOFS. What the path and the Tool Link leave of each other (O60). -/

namespace Sys2Proof.Machine

/-- The events of the path and of time leave the Tool Link as it is: none of their frames names it. -/
theorem exec_toolLink_of_path {c : Instr} {s t : State} (h : exec c s = .next t) (hc : commandFields c = none)
    (hporst : c ≠ .porst) (hresync : c ≠ .resync) (hrelease : ∀ low, c ≠ .porstRelease low)
    (hfault : ∀ p, c ≠ .linkFault p) (hdup : ∀ code seq, c ≠ .duplicate code seq) : t.toolLink = s.toolLink := by
  cases c with
  | porst => exact absurd rfl hporst
  | resync => exact absurd rfl hresync
  | porstRelease low => exact absurd rfl (hrelease low)
  | linkFault p => exact absurd rfl (hfault p)
  | duplicate code seq => exact absurd rfl (hdup code seq)
  | srst => rw [execSrst_frame h]
  | srstRelease => rw [execSrstRelease_frame h]
  | requestAccept request => rw [execRequestAccept_frame request h]
  | classify => rw [execClassify_frame h]
  | startTrigger => rw [execStartTrigger_frame h]
  | watchAction => rw [execWatchAction_frame h]
  | captureSlotAction => rw [execCaptureSlotAction_frame h]
  | captureQueueAction => rw [execCaptureQueueAction_frame h]
  | overlayAction => rw [execOverlayAction_frame h]
  | historyAppend => rw [execHistoryAppend_frame h]
  | recordNotice => rw [execRecordNotice_frame h]
  | stopTrigger => rw [execStopTrigger_frame h]
  | oneShotRetire => rw [execOneShotRetire_frame h]
  | mportSend => rw [execMportSend_frame h]
  | memoryResponse tag status beats => rw [execMemoryResponse_frame tag status beats h]
  | tick => rw [execTick_frame h]
  | responseLimitExpiry entry => rw [execResponseLimitExpiry_frame entry h]
  | stallLimitExpiry => rw [execStallLimitExpiry_frame h]
  | arbiterGrant => rw [execArbiterGrant_frame h]
  | _ => cases hc

/-- The Tool Link's own rows and its reading commands leave everything but the Link as it is. -/
theorem exec_frame_of_link_row {c : Instr} {s t : State} {seq : Byte} (h : exec c s = .next t)
    (hc : c = .resync ∨ c = .nop seq ∨ (∃ code, c = .duplicate code seq ∨ c = .unknownCommand code seq)
      ∨ c = .getStatus seq ∨ (∃ index, c = .readEntry seq index) ∨ (∃ slot, c = .readSlot seq slot)
      ∨ c = .readCounters seq) : t = { s with toolLink := t.toolLink } := by
  rcases hc with rfl | rfl | ⟨code, rfl | rfl⟩ | rfl | ⟨index, rfl⟩ | ⟨slot, rfl⟩ | rfl
  · exact execResync_frame h
  · exact execNop_frame seq h
  · exact execDuplicate_frame code seq h
  · exact execUnknownCommand_frame code seq h
  · exact execGetStatus_frame seq h
  · exact execReadEntry_frame seq index h
  · exact execReadSlot_frame seq slot h
  · exact execReadCounters_frame seq h

/-- The stored command goes through the end of a period that keeps it. -/
theorem takePeriod_stored {take : State → State} {s : State}
    (h : (take s).toolLink.stored = s.toolLink.stored) : (takePeriod take s).toolLink.stored = s.toolLink.stored := by
  by_cases hp : s.TakesPeriods
  · rw [takePeriod_of_takes hp, h]
  · rw [takePeriod_of_not hp]
    rfl

/-- A link fault leaves the stored command (R150). -/
theorem execLinkFault_stored {p : Period} {s t : State} (h : execLinkFault p s = .next t) :
    t.toolLink.stored = s.toolLink.stored := by
  cases h
  refine takePeriod_stored ?_
  cases p.taken with
  | fault reason => rfl
  | resync => rfl
  | command code seq payload => rfl

/-- Settles O60, from the frames of the commands; for a fault, the answer it prepares leaves the stored command. -/
theorem pathAndLinkTouchOnlyTheirOwn : Obligations.PathAndLinkTouchOnlyTheirOwn :=
  ⟨fun _ _ _ h hc hporst hresync hrelease hfault hdup =>
      exec_toolLink_of_path h hc hporst hresync hrelease hfault hdup,
    fun _ _ _ _ h hc => exec_frame_of_link_row h hc,
    fun _ _ p h => ⟨execLinkFault_frame p h, execLinkFault_stored h⟩⟩

end Sys2Proof.Machine
end

section
/-! PROOFS. The rows of the Classifier's work and the overlay (O37, O39, O40, O43, O44, O46). -/

namespace Sys2Proof.Machine

/-- A count raised by one, holding at its greatest value (R19, R20). -/
theorem satInc_eq (x : BitVec 16) : satInc x = if x = 65535 then 65535 else x + 1 := by
  by_cases h : x = 65535#16 <;> simp [satInc, h]

/-! ### The rows of the Classifier's work, where they are next (R25) -/

section Rows
variable {s : State} {w : Work} {g : Governor}

/-- Outside ACTIVE, or with no governing entry, CLASSIFY forwards the request and ends the work (R24). -/
theorem exec_classify_of_ungoverned (hw : s.work = some w) (hst : w.stage = .lookup)
    (h : s.mode ≠ .active ∨ s.governing w.request = none) :
    exec .classify s = .next ((s.forward w).setWork none) := by
  obtain ⟨r, t, stage⟩ := w
  subst hst
  simp only [exec, execClassify, hw]
  cases hm : s.mode with
  | bypass => rfl
  | draining => rfl
  | active => simp only [h.resolve_left (not_not_intro hm)]

/-- In ACTIVE CLASSIFY counts a hit of the governing entry, and the entry's first step is next (R19, R25). -/
theorem exec_classify_of_governed {i : Fin 32} (hw : s.work = some w) (hst : w.stage = .lookup)
    (hm : s.mode = .active) (hi : s.governing w.request = some i) : exec .classify s = .next (s.govern w i) := by
  obtain ⟨r, t, stage⟩ := w
  subst hst
  simp only [exec, execClassify, hw, hm, hi]

theorem govern_eq (s : State) (w : Work) (i : Fin 32)
    (hg : g = { index := i, image := (s.matchEntry i).image, renewed := false, stopIgnored := false }) :
    s.govern w i = (s.setMatch i { s.matchEntry i with hits := satInc (s.matchEntry i).hits }).setWork
      (some { w with stage := if g.image.trigger = 0x01#8 then .start g else .action g }) := by
  subst hg
  simp only [State.govern, State.hit, isStart, beq_iff_eq]

theorem exec_watchAction_of_watch (hw : s.work = some w) (hst : w.stage = .action g) (ha : g.image.action = 0#8) :
    exec .watchAction s = .next (s.forwardAndGoOn w g) := by
  obtain ⟨r, t, stage⟩ := w
  subst hst
  simp only [exec, execWatchAction, hw, (actionOf_eq_watch _).mpr ha, if_true]

theorem exec_captureSlotAction_of_captureSlot (hw : s.work = some w) (hst : w.stage = .action g)
    (ha : g.image.action = 1#8) :
    exec .captureSlotAction s = .next (if s.mode = .active then s.captureToSlot w g else s.forwardAndGoOn w g) := by
  obtain ⟨r, t, stage⟩ := w
  subst hst
  simp only [exec, execCaptureSlotAction, hw, (actionOf_eq_captureSlot _).mpr ha, if_true]

theorem exec_overlayAction_of_overlay (hw : s.work = some w) (hst : w.stage = .action g)
    (ha : g.image.action = 3#8) :
    exec .overlayAction s = .next (if s.mode = .active then s.overlay w g else s.forwardAndGoOn w g) := by
  obtain ⟨r, t, stage⟩ := w
  subst hst
  simp only [exec, execOverlayAction, hw, (actionOf_eq_overlay _).mpr ha, if_true]

theorem exec_oneShotRetire_of_retire (hw : s.work = some w) (hst : w.stage = .retire g) :
    exec .oneShotRetire s = .next ((s.retire g).setWork none) := by
  obtain ⟨r, t, stage⟩ := w
  subst hst
  simp only [exec, execOneShotRetire, hw]

end Rows

/-! ### The capture slot's action (R28) -/

section CaptureSlot
variable {s : State} {w : Work} {g : Governor}

theorem recordDue_iff (s : State) : s.recordDue = true ↔ s.session.state = .running ∨ s.session.state = .stopping := by
  simp [State.recordDue]

theorem captureSlotOf_eq {m : EntryImage} {n : SlotId} (h : m.captureSlot.toNat = n.val) : captureSlotOf m = n := by
  simp [captureSlotOf, h]

theorem captureToSlot_of_not_due (h : s.recordDue = false) : s.captureToSlot w g = s.forwardAndGoOn w g := if_pos h

theorem captureToSlot_of_tool (h : s.recordDue = true) (ho : (s.slot (captureSlotOf g.image)).owner = .tool) :
    s.captureToSlot w g = (s.miss g.index).forwardAndGoOn w g := by
  simp [State.captureToSlot, h, ho]

theorem captureToSlot_of_unit (h : s.recordDue = true) (ho : (s.slot (captureSlotOf g.image)).owner = .unit) :
    s.captureToSlot w g = (s.createRecord (captureSlotOf g.image) w.request true).setWork
      (some { w with stage := .append g { slot := captureSlotOf g.image, sequence := s.captureSeq } }) := by
  simp [State.captureToSlot, h, ho]

end CaptureSlot

/-! ### The overlay action (R30) -/

section Overlay
variable {s : State} {w : Work} {g : Governor}

theorem isForward_iff (m : EntryImage) : isForward m = true ↔ m.writePolicy = 1#8 := beq_iff_eq

theorem isStall_iff (m : EntryImage) : isStall m = true ↔ m.fallback = 1#8 := beq_iff_eq

theorem overlay_of_forward (hk : w.request.kind = .write) (hp : g.image.writePolicy = 1#8) :
    s.overlay w g = s.forwardAndGoOn w g := if_pos ⟨hk, (isForward_iff _).mpr hp⟩

/-- The condition of the rows of the table that look at the owner: a read, or a write that is not forwarded. -/
theorem not_forwarded (h : w.request.kind = .read ∨ g.image.writePolicy ≠ 1#8) :
    ¬ (w.request.kind = .write ∧ isForward g.image = true) := by
  rintro ⟨hk, hp⟩
  rcases h with h | h
  · rw [h] at hk
    cases hk
  · exact h ((isForward_iff _).mp hp)

theorem overlay_of_unit (h : w.request.kind = .read ∨ g.image.writePolicy ≠ 1#8)
    (ho : (s.slot (s.servingSlot g.image w.request)).owner = .unit) :
    s.overlay w g = s.serveAndGoOn w g (s.servingSlot g.image w.request) := by
  rw [State.overlay, if_neg (not_forwarded h), ho]

theorem overlay_of_tool (h : w.request.kind = .read ∨ g.image.writePolicy ≠ 1#8)
    (ho : (s.slot (s.servingSlot g.image w.request)).owner = .tool) :
    s.overlay w g = s.fallBack w g (s.servingSlot g.image w.request) := by
  rw [State.overlay, if_neg (not_forwarded h), ho]

theorem fallBack_of_stall (n : SlotId) (h : g.image.fallback = 1#8) : s.fallBack w g n = s.beginStall w g n :=
  if_pos ((isStall_iff _).mpr h)

theorem fallBack_of_not_stall (n : SlotId) (h : g.image.fallback ≠ 1#8) :
    s.fallBack w g n = (s.miss g.index).forwardAndGoOn w g := if_neg (mt (isStall_iff _).mp h)

end Overlay

/-! ### The lines of the overlay (R95 to R99) -/

theorem servingSlotOf_val {m : EntryImage} {bank : Bank} {r : Request} (hm : m.runLength.toNat ≤ 4)
    (h : runFirst m bank + 2 ^ m.runLength.toNat ≤ 64) :
    (servingSlotOf m bank r).val = runFirst m bank + r.address.toNat / 64 % 2 ^ m.runLength.toNat := by
  have hlt : r.address.toNat / 64 % 2 ^ m.runLength.toNat < 2 ^ m.runLength.toNat :=
    Nat.mod_lt _ (Nat.two_pow_pos _)
  simp only [servingSlotOf, lineIndex, linesOf_eq_pow _ hm, Fin.val_ofNat]
  exact Nat.mod_eq_of_lt (by omega)

/-- The run in force is A where run B is ABSENT or the selector holds A, and otherwise B (R97). -/
theorem runFirst_eq {m : EntryImage} {bank : Bank} {run : Byte}
    (h : (run = m.runA ∧ (m.runB = 0 ∨ bank = .a)) ∨ (m.runB ≠ 0 ∧ bank = .b ∧ run.toNat + 1 = m.runB.toNat)) :
    runFirst m bank = run.toNat := by
  by_cases hb : m.runB = 0#8
  · obtain ⟨rfl, _⟩ := h.resolve_right fun h => h.1 hb
    simp only [runFirst, (runBFirst_eq_none m).mpr hb]
  · rcases h with ⟨rfl, h | rfl⟩ | ⟨_, rfl, hr⟩
    · exact absurd h hb
    · simp only [runFirst, runBFirst_of_ne hb]
    · simp only [runFirst, runBFirst_of_ne hb]
      omega

theorem lineBeat_byte (d : Line) (b : Nat) {j : Nat} (hj : j < 8) :
    (lineBeat d b).extractLsb' (8 * j) 8 = lineByte d (8 * b + j) := by
  apply BitVec.eq_of_getLsbD_eq
  intro i hi
  simp only [lineBeat, BitVec.getLsbD_extractLsb', BitVec.getLsbD_append]
  interval_cases j <;> interval_cases i <;> rfl


theorem lineByte_of_lt (d : Line) {n : Nat} (h : n < 64) : lineByte d n = d[n] := dif_pos h

theorem length_lineBeats (d : Line) (first n : Nat) : (lineBeats d first n).length = n := by simp [lineBeats]

theorem getD_lineBeats (d : Line) (first : Nat) {n b : Nat} (h : b < n) :
    (lineBeats d first n).getD b 0 = lineBeat d (first + b) := by
  simp [lineBeats, List.getD, h]

theorem getElem_mergeLine (d : Line) (f : Nat → Option Byte) (i : Fin 64) :
    (mergeLine d f)[i] = (f i.val).getD d[i] := by
  simp [mergeLine]

section WriteByte
variable {r : Request} {i : Nat}

theorem inBeats_iff (first n i : Nat) : inBeats first n i = true ↔ first ≤ i / 8 ∧ i / 8 < first + n := by
  simp [inBeats]

/-- A write puts the byte of an enabled place of one of its beats there (R99). -/
theorem writeByte_of_enabled {beat : WriteBeat} (hfirst : (firstBeat r).toNat ≤ i / 8)
    (hlast : i / 8 < (firstBeat r).toNat + r.beats) (hbeat : r.write[i / 8 - (firstBeat r).toNat]? = some beat)
    (hen : beat.enables.getLsbD (i % 8) = true) : writeByte r i = some (byteAt beat.data (i % 8)) := by
  simp only [writeByte, (inBeats_iff _ _ _).mpr ⟨hfirst, hlast⟩, hbeat, hen, if_true]

/-- A write puts nothing at a place that none of its beats enables (R99). -/
theorem writeByte_of_not_enabled
    (h : ∀ beat, (firstBeat r).toNat ≤ i / 8 → i / 8 < (firstBeat r).toNat + r.beats →
      r.write[i / 8 - (firstBeat r).toNat]? = some beat → beat.enables.getLsbD (i % 8) = false) :
    writeByte r i = none := by
  by_cases hin : inBeats (firstBeat r).toNat r.beats i = true
  · obtain ⟨hfirst, hlast⟩ := (inBeats_iff _ _ _).mp hin
    cases hbeat : r.write[i / 8 - (firstBeat r).toNat]? with
    | none => simp only [writeByte, hin, hbeat, if_true]
    | some beat => simp [writeByte, hin, hbeat, h beat hfirst hlast hbeat]
  · exact if_neg hin

end WriteByte

theorem serve_of_read {s : State} {w : Work} (n : SlotId) (h : w.request.kind = .read) :
    s.serve w n = s.answerLocally w
      { status := .done, beats := lineBeats (s.slot n).data (firstBeat w.request).toNat w.request.beats } true := by
  simp only [State.serve, h]

theorem serve_of_write {s : State} {w : Work} (n : SlotId) (h : w.request.kind = .write) :
    s.serve w n = (s.setSlot n
        { s.slot n with data := mergeLine (s.slot n).data (writeByte w.request) }).answerLocally w
      { status := .done, beats := [] } true := by
  simp only [State.serve, h]

/-- Settles O43: the run in force and the line in it, and then the bytes that a read takes and a write puts. -/
theorem overlayRequestsAreServedFromTheirLine : Obligations.OverlayRequestsAreServedFromTheirLine := by
  intro s w n m named
  refine ⟨fun hm run hrun hfit => ?_, fun hg => ?_, fun hk => ?_, fun hk => ?_⟩
  · have hfirst := runFirst_eq hrun
    rw [← hfirst] at hfit ⊢
    exact servingSlotOf_val hm hfit
  · exact Nat.mod_eq_of_lt (Nat.lt_succ_of_le hg)
  · refine ⟨_, serve_of_read n hk, length_lineBeats _ _ _, fun b j h hb hj => ?_⟩
    rw [getD_lineBeats _ _ hb, lineBeat_byte _ _ hj]
    exact lineByte_of_lt _ h
  · refine ⟨_, serve_of_write n hk, fun i => ⟨fun beat hfirst hlast hbeat hen => ?_, fun h => ?_⟩⟩
    · rw [getElem_mergeLine, writeByte_of_enabled hfirst hlast hbeat hen]
      rfl
    · rw [getElem_mergeLine, writeByte_of_not_enabled h]
      rfl

/-- Settles O37: by the mode and the lookup. -/
theorem classifyLooksUpOnlyInActive : Obligations.ClassifyLooksUpOnlyInActive := by
  intro s w hw hst
  refine ⟨exec_classify_of_ungoverned hw hst, fun i g hm hi hg => ?_⟩
  rw [exec_classify_of_governed hw hst hm hi, govern_eq s w i hg, satInc_eq]

/-- Settles O39: the action row forwards whatever the mode, and the retirement asks for the mark alone. -/
theorem watchForwardsAndOneShotRetires : Obligations.WatchForwardsAndOneShotRetires := by
  intro s w g hw
  refine ⟨fun hst ha => exec_watchAction_of_watch hw hst ha, fun hst hr => ?_, fun hst hr => ?_⟩
  · rw [exec_oneShotRetire_of_retire hw hst, State.retire, hr]
    rfl
  · rw [exec_oneShotRetire_of_retire hw hst, State.retire, hr]
    rfl

/-- Settles O40: by the mode and the session, and then by the owner of the capture slot. -/
theorem captureSlotActionRecordsWhenDue : Obligations.CaptureSlotActionRecordsWhenDue := by
  intro s w g n hw hst ha hn
  rw [exec_captureSlotAction_of_captureSlot hw hst ha]
  refine ⟨fun h => ?_, fun hm hdue => ?_⟩
  · by_cases hm : s.mode = .active
    · have hnot : ¬ s.recordDue = true := by
        rw [recordDue_iff, not_or]
        exact h.resolve_left (not_not_intro hm)
      rw [if_pos hm, captureToSlot_of_not_due (Bool.eq_false_iff.mpr hnot), State.forwardAndGoOn]
    · rw [if_neg hm, State.forwardAndGoOn]
  · rw [if_pos hm, ← captureSlotOf_eq hn]
    refine ⟨fun ho => ?_, fun ho => ?_⟩
    · rw [captureToSlot_of_tool ((recordDue_iff s).mpr hdue) ho, State.miss, satInc_eq, State.forwardAndGoOn]
    · rw [captureToSlot_of_unit ((recordDue_iff s).mpr hdue) ho]

/-- Settles O44: by the mode, and then by the rows of the table of R30. -/
theorem overlayActionFollowsTheTable : Obligations.OverlayActionFollowsTheTable := by
  rintro s w g n hw hst ha rfl
  rw [exec_overlayAction_of_overlay hw hst ha]
  refine ⟨fun h => ?_, fun hm hk => ?_⟩
  · by_cases hm : s.mode = .active
    · obtain ⟨hkind, hpolicy⟩ := h.resolve_left (not_not_intro hm)
      rw [if_pos hm, overlay_of_forward hkind hpolicy, State.forwardAndGoOn]
    · rw [if_neg hm, State.forwardAndGoOn]
  · rw [if_pos hm]
    refine ⟨fun ho => ?_, fun ho hf => ?_, fun ho hf => ?_⟩
    · rw [overlay_of_unit hk ho, State.serveAndGoOn, State.servingSlot]
    · rw [overlay_of_tool hk ho, fallBack_of_not_stall _ hf, State.miss, satInc_eq, State.forwardAndGoOn]
    · rw [overlay_of_tool hk ho, fallBack_of_stall _ hf]
      rfl

/-- Settles O46: the expiry row is taken where the stall's timer is at 0, and is no event otherwise. -/
theorem stallExpiryAnswersOverlayUnavailable : Obligations.StallExpiryAnswersOverlayUnavailable := by
  intro s
  refine ⟨fun w g n hstall => ?_, fun h => congrArg Host.Outcome.next (s.settleStall_of_not_due h)⟩
  refine congrArg Host.Outcome.next ((s.settleStall_of_due hstall).trans ?_)
  rw [State.expireStall, State.miss, satInc_eq, State.answerLocally_matchEntry]

end Sys2Proof.Machine
end

section
/-! PROOFS. PORST and CLEAR_UNIT: the values they restore, and the invariants there (O2, O3, O34, O52). -/

namespace Sys2Proof.Machine

/-! ### The places of the state after PORST -/

theorem reset_matchEntry (i : Fin 32) : State.reset.matchEntry i = MatchEntry.porst := by
  simp [State.matchEntry, State.reset]

theorem reset_slot (n : SlotId) : State.reset.slot n = Slot.porst := by simp [State.slot, State.reset]

theorem reset_track (t : Tag) : State.reset.track t = TrackerEntry.porst := by
  simp [State.track, State.reset, Tracker.porst]

theorem reset_order (src : SourceId) : State.reset.order src = [] := by
  simp [State.order, State.reset, Tracker.porst]

theorem reset_counter (k : Counter) : State.reset.counter k = 0 := by
  simp [State.counter, State.reset, Alerts.porst]

theorem reset_isPending (c : Cause) : State.reset.isPending c = false := by
  simp [State.isPending, State.reset, Alerts.porst]

theorem reset_isEnabled (c : Cause) : State.reset.isEnabled c = false := by
  simp [State.isEnabled, State.reset, Alerts.porst]

/-- Settles O2: the places of each table by their lemmas, and every other item as `State.reset` gives it. -/
theorem resetHoldsTheValuesAfterPorst : Obligations.ResetHoldsTheValuesAfterPorst := by
  refine ⟨fun i => ?_, reset_slot, reset_track, reset_order, rfl, rfl, rfl, rfl, rfl, rfl, rfl, rfl, rfl,
    fun group => ?_, rfl, rfl, reset_counter, fun c => ⟨reset_isPending c, reset_isEnabled c⟩, rfl, rfl, rfl, rfl, rfl, rfl⟩
  · rw [reset_matchEntry]
    exact ⟨rfl, rfl, rfl, rfl⟩
  · simp [State.reset]

/-! ### The invariants after PORST -/

theorem reset_timeBaseLegal : State.reset.TimeBaseLegal :=
  ⟨by decide, by decide, by decide, fun p hp => (by cases hp)⟩

theorem reset_sessionLegal : State.reset.SessionLegal := ⟨fun h => (by cases h), fun _ => rfl⟩

theorem reset_entriesLegal : State.reset.EntriesLegal := by
  refine ⟨fun t => ?_, fun t => ?_, fun w hw => (by cases hw)⟩
  · rw [reset_track]
    simp [TrackerEntry.Legal, TrackerEntry.porst]
  · rw [reset_track]
    exact ⟨fun h => (by cases h), fun ⟨w, hw, _⟩ => (by cases hw)⟩

theorem reset_ordersLegal : State.reset.OrdersLegal := by
  intro src
  rw [reset_order]
  refine ⟨List.nodup_nil, fun t => ?_⟩
  simp [reset_track, TrackerEntry.listed, TrackerEntry.porst]

theorem reset_sendListLegal : State.reset.SendListLegal := by
  refine ⟨List.nodup_nil, fun t => ?_⟩
  rw [reset_track]
  exact ⟨fun h => (by cases h), fun h => (by cases h.1)⟩

theorem reset_recordsLegal : State.reset.RecordsLegal := by
  refine ⟨fun n => ?_, fun w hw => (by cases hw)⟩
  rw [reset_slot]
  exact ⟨by decide, by decide, by decide⟩

theorem reset_modeLegal : State.reset.ModeLegal := by
  have hserved : State.reset.anySlotServed = false :=
    (anySlotServed_eq_false _).mpr fun t => by rw [reset_track]; rfl
  exact ⟨fun _ => hserved, fun h => (by cases h), fun h => (by cases h)⟩

/-- Settles O52, invariant by invariant: nothing is held, listed, configured or ON after PORST. -/
theorem resetHasEveryInvariant : Obligations.ResetHasEveryInvariant :=
  ⟨Nat.zero_le _, reset_timeBaseLegal, reset_sessionLegal, .inl rfl, queueRunUnitOwned_of_unconfigured rfl,
    entriesChecked_of_table_porst rfl, reset_recordsLegal,
    ⟨reset_entriesLegal, reset_ordersLegal, reset_sendListLegal⟩, reset_modeLegal⟩

/-! ### The Tool Link while it takes no period (R147) -/

theorem not_takesPeriods {s : State} (h : s.porstAsserted = true ∨ s.toolLink.awaitsHigh = true) :
    ¬ s.TakesPeriods := by
  rintro ⟨hp, hw⟩
  rcases h with h | h
  · rw [hp] at h
    cases h
  · rw [hw] at h
    cases h

/-- A command frame that comes while the Link takes no period is no frame: TL_CS_N goes high, and nothing else changes. -/
theorem exec_command_of_not_takes {s : State} (h : ¬ s.TakesPeriods) {c : Instr} {f : Byte × Byte × List Byte}
    (hwf : c.wellFormed = true) (hf : commandFields c = some f) : exec c s = .next s.deselect := by
  cases c
  case nop seq => exact congrArg Host.Outcome.next (takePeriod_of_not h _)
  case unknownCommand code seq =>
    have hname : namesCommand code = false := by simpa [Instr.wellFormed] using hwf
    simp only [exec, execUnknownCommand, hname, Bool.false_eq_true, if_false, linkExecute_of_not h]
  all_goals cases hf
  all_goals exact congrArg Host.Outcome.next (linkExecute_of_not h _ _ _)

/-- Settles O3: PORST and its release as their meanings give them, and what each kind of event meets while PORST_N is low. -/
theorem porstRestoresEveryItemAndNothingIsTaken : Obligations.PorstRestoresEveryItemAndNothingIsTaken := by
  refine ⟨fun s => ⟨rfl, fun chipSelected => ⟨fun hp => ?_, fun hp => ?_⟩⟩, ?_, fun s hp =>
    ⟨?_, fun t status beats => ?_, fun r => ?_⟩⟩
  · simp only [exec, execPorstRelease, hp, if_true]
  · simp only [exec, execPorstRelease, hp, Bool.false_eq_true, if_false]
  · rintro s t hlow rfl
    have hnot := not_takesPeriods hlow
    exact ⟨fun i f hwf hf => exec_command_of_not_takes hnot hwf hf,
      fun p => congrArg Host.Outcome.next (takePeriod_of_not hnot _),
      congrArg Host.Outcome.next (takePeriod_of_not hnot _),
      fun code seq => congrArg Host.Outcome.next (takePeriod_of_not hnot _)⟩
  · simp only [exec, execTick, hp, if_true]
  · simp only [exec, execMemoryResponse, hp, if_true]
  · have hport : s.portOpen = false := by simp [State.portOpen, hp]
    simp only [exec, execRequestAccept, hport, Bool.false_eq_true, if_false]

/-! ### CLEAR_UNIT (R161) -/

theorem clearUnit_of_accepted {s : State} (hm : s.mode = .bypass)
    (hs : s.session.state = .idle ∨ s.session.state = .frozen) : clearUnit s = (s.clearUnit, answer .ok) :=
  if_pos ⟨hm, hs⟩

theorem clearUnit_of_refused {s : State} (h : s.mode ≠ .bypass ∨ s.session.state = .armed
    ∨ s.session.state = .running ∨ s.session.state = .stopping) : clearUnit s = (s, answer .badState) := by
  refine if_neg ?_
  rintro ⟨hm, hs⟩
  have hstate := h.resolve_left (not_not_intro hm)
  rcases hs with hs | hs <;> simp [hs] at hstate

/-- Settles O34: by the mode and the session. -/
theorem clearUnitRestoresConfigurationAndRecordings : Obligations.ClearUnitRestoresConfigurationAndRecordings := by
  intro s seq hx
  refine ⟨fun h => ?_, fun hm hs => ?_⟩
  · show Host.Outcome.next (linkExecute 0x03#8 seq clearUnit s) = _
    rw [linkExecute_of_executes hx, clearUnit_of_refused h]
  · show Host.Outcome.next (linkExecute 0x03#8 seq clearUnit s) = _
    rw [linkExecute_of_executes hx, clearUnit_of_accepted hm hs]
    rfl

end Sys2Proof.Machine
end

section
/-! PROOFS. SRST, part by part of the memory path (O51). -/

namespace Sys2Proof.Machine

/-! ### The records at SRST (R71) -/

theorem closable_iff (sl : Slot) (sequence : BitVec 16) :
    sl.closable sequence = true ↔ sl.owner = .unit ∧ sl.record = .held ∧ sl.sequence = sequence
      ∧ sl.outcome = .pending := by
  simp [Slot.closable, and_assoc]

/-- The abandonment access marks the record of its link, if the check passes, and nothing else (R71). -/
theorem slot_abandon (s : State) (l : CaptureLink) (n : SlotId) :
    (s.abandon l).slot n = if l.slot = n ∧ (s.slot n).closable l.sequence = true
      then { s.slot n with outcome := .abandoned } else s.slot n := by
  unfold State.abandon
  by_cases hn : l.slot = n
  · subst hn
    split <;> simp [*]
  · split <;> simp [hn, State.slot_setSlot]

/-- A slot on which the check of no link passes is left as it is. -/
theorem slot_foldl_abandon_of_none (links : List CaptureLink) (s : State) (n : SlotId)
    (h : ∀ l ∈ links, ¬ (l.slot = n ∧ (s.slot n).closable l.sequence = true)) :
    (links.foldl State.abandon s).slot n = s.slot n := by
  induction links generalizing s with
  | nil => rfl
  | cons l rest ih =>
    have hl : (s.abandon l).slot n = s.slot n := by
      rw [slot_abandon, if_neg (h l List.mem_cons_self)]
    rw [List.foldl_cons, ih (s.abandon l) (by rw [hl]; exact fun k hk => h k (List.mem_cons_of_mem _ hk)), hl]

/-- A slot on which the check of some link passes is marked, once: the check passes on no marked record. -/
theorem slot_foldl_abandon_of_some (links : List CaptureLink) (s : State) (n : SlotId)
    (h : ∃ l ∈ links, l.slot = n ∧ (s.slot n).closable l.sequence = true) :
    (links.foldl State.abandon s).slot n = { s.slot n with outcome := .abandoned } := by
  induction links generalizing s with
  | nil => simp at h
  | cons l rest ih =>
    rw [List.foldl_cons]
    by_cases hl : l.slot = n ∧ (s.slot n).closable l.sequence = true
    · have hmarked : (s.abandon l).slot n = { s.slot n with outcome := .abandoned } := by
        rw [slot_abandon, if_pos hl]
      rw [slot_foldl_abandon_of_none _ _ _ fun k _ hk => ?_, hmarked]
      obtain ⟨_, _, _, hpending⟩ := (closable_iff _ _).mp (hmarked ▸ hk.2)
      cases hpending
    · have hkept : (s.abandon l).slot n = s.slot n := by rw [slot_abandon, if_neg hl]
      obtain ⟨k, hk, hpass⟩ := h
      have hrest : k ∈ rest := (List.mem_cons.mp hk).resolve_left fun e => hl (e ▸ hpass)
      rw [ih (s.abandon l) ⟨k, hrest, by rwa [hkept]⟩, hkept]

theorem mem_links (s : State) (l : CaptureLink) :
    (l ∈ s.tracker.entries.toList.filterMap fun e => e.link) ↔ ∃ e : Tag, (s.track e).link = some l := by
  simp only [List.mem_filterMap, Vector.mem_toList_iff, Vector.mem_iff_getElem]
  constructor
  · rintro ⟨_, ⟨i, hi, rfl⟩, hl⟩
    exact ⟨⟨i, hi⟩, hl⟩
  · rintro ⟨e, hl⟩
    exact ⟨_, ⟨e.val, e.isLt, rfl⟩, hl⟩

theorem slot_abandonLinked_of_pass (s : State) (n : SlotId) {e : Tag} {l : CaptureLink}
    (hl : (s.track e).link = some l) (hn : l.slot = n) (hc : (s.slot n).closable l.sequence = true) :
    s.abandonLinked.slot n = { s.slot n with outcome := .abandoned } :=
  slot_foldl_abandon_of_some _ s n ⟨l, (mem_links s l).mpr ⟨e, hl⟩, hn, hc⟩

theorem slot_abandonLinked_of_fail (s : State) (n : SlotId)
    (h : ∀ (e : Tag) (l : CaptureLink), (s.track e).link = some l → l.slot = n →
      ¬ (s.slot n).closable l.sequence = true) : s.abandonLinked.slot n = s.slot n := by
  refine slot_foldl_abandon_of_none _ s n fun l hl hpass => ?_
  obtain ⟨e, he⟩ := (mem_links s l).mp hl
  exact h e l he hpass.1 hpass.2

/-! ### The Classifier at SRST (R37, R39) -/

section DiscardWork
variable {s : State} {w : Work} {g : Governor}

theorem discardWork_of_governor (hw : s.work = some w) (hg : w.stage.governor = some g) :
    s.discardWork = (if g.image.oneShot = 1#8 then s.retire g else s).setWork none := by
  unfold State.discardWork
  simp only [hw, hg, isOneShot, beq_iff_eq]

theorem discardWork_of_no_governor (h : ∀ w, s.work = some w → w.stage.governor = none) :
    s.discardWork = s.setWork none := by
  unfold State.discardWork
  cases hw : s.work with
  | none =>
    show s = { s with work := none }
    rw [← hw]
  | some w => simp only [h w hw]

/-- The one-shot entry that governed the request, and was not enabled again since, turns OFF. -/
theorem matchEntry_discardWork_of_one_shot (hw : s.work = some w) (hg : w.stage.governor = some g)
    (hone : g.image.oneShot = 1#8) (hr : g.renewed = false) :
    s.discardWork.matchEntry g.index = { s.matchEntry g.index with state := .off } := by
  rw [discardWork_of_governor hw hg, if_pos hone, State.retire, hr]
  exact s.matchEntry_setMatch_self _ _

/-- Every other entry is kept. -/
theorem matchEntry_discardWork_of_other (i : Fin 32)
    (h : ∀ (w : Work) (g : Governor), s.work = some w → w.stage.governor = some g → g.index = i →
      g.image.oneShot ≠ 1#8 ∨ g.renewed = true) : s.discardWork.matchEntry i = s.matchEntry i := by
  by_cases hgov : ∃ w g, s.work = some w ∧ w.stage.governor = some g
  · obtain ⟨w, g, hw, hg⟩ := hgov
    rw [discardWork_of_governor hw hg]
    by_cases hone : g.image.oneShot = 1#8
    · rw [if_pos hone, State.retire]
      cases hr : g.renewed with
      | true => rfl
      | false =>
        have hne : g.index ≠ i := fun hi => by
          rcases h w g hw hg hi with hn | hn
          · exact hn hone
          · rw [hr] at hn
            cases hn
        exact (s.matchEntry_setMatch _ _ _).trans (if_neg hne)
    · rw [if_neg hone]
      rfl
  · have hnone : ∀ w, s.work = some w → w.stage.governor = none := fun w hw =>
      Option.eq_none_iff_forall_ne_some.mpr fun g hg => hgov ⟨w, g, hw, hg⟩
    rw [discardWork_of_no_governor hnone]
    rfl

end DiscardWork

/-! ### SRST (R143) -/

/-- The block in SRST before the check of the drain. -/
def State.srstPath (s : State) : State := s.abandonLinked.discardWork.resetPath

theorem exec_srst_eq (s : State) :
    exec .srst s = .next { s.settleTimers.srstPath.completeDrain with srstAsserted := true } := rfl

theorem srstPath_tracker (s : State) : s.srstPath.tracker = s.tracker.srst := by
  simp [State.srstPath, State.resetPath]

theorem srst_responseLimit (k : Tracker) : k.srst.responseLimit = k.responseLimit := by simp only [Tracker.srst]

theorem srst_stallLimit (k : Tracker) : k.srst.stallLimit = k.stallLimit := by simp only [Tracker.srst]

theorem track_of_tracker_srst {s t : State} (h : t.tracker = s.tracker.srst) (e : Tag) :
    t.track e = (s.track e).cleared .free := by
  simp [State.track, h, Tracker.srst]

theorem order_of_tracker_srst {s t : State} (h : t.tracker = s.tracker.srst) (src : SourceId) : t.order src = [] := by
  simp [State.order, h, Tracker.srst]

theorem srstPath_anySlotServed (s : State) : s.srstPath.anySlotServed = false :=
  (anySlotServed_eq_false _).mpr fun e => by rw [track_of_tracker_srst (srstPath_tracker s)]; rfl

theorem completeDrain_of_draining {s : State} (hm : s.mode = .draining) (h : s.anySlotServed = false) :
    s.completeDrain = (s.setMode .bypass).raise .drainDone := if_pos ⟨hm, h⟩

theorem completeDrain_of_not_draining {s : State} (hm : s.mode ≠ .draining) : s.completeDrain = s :=
  if_neg fun h => hm h.1

/-- A cause raised depends on the alerts alone. -/
theorem raise_alerts_congr {s t : State} (h : s.alerts = t.alerts) (c : Cause) :
    (s.raise c).alerts = (t.raise c).alerts := by
  simp only [State.raise, h]

/-- SRST with no expiry due: the parts of the path take their values, the drain check gives mode and alerts, and everything
outside the path is kept. -/
theorem exec_srst_of_noExpiryDue {s : State} (hs : s.NoExpiryDue) :
    exec .srst s = .next { s with
      table := s.abandonLinked.discardWork.table, mode := s.srstPath.completeDrain.mode, work := none
      slots := s.abandonLinked.slots, tracker := s.tracker.srst, alerts := s.srstPath.completeDrain.alerts
      srstAsserted := true } := by
  rw [exec_srst_eq, s.settleTimers_of_noExpiryDue hs]
  refine congrArg Host.Outcome.next ?_
  apply State.ext <;> simp [State.srstPath, State.resetPath]

theorem srstPath_mode (s : State) : s.srstPath.mode = s.mode := by simp [State.srstPath]

theorem srstPath_alerts (s : State) : s.srstPath.alerts = s.alerts := by simp [State.srstPath]

/-- A drain in progress completes at SRST, which leaves no slot-served answer held (R34). -/
theorem srst_completes_drain {s : State} (hm : s.mode = .draining) :
    s.srstPath.completeDrain.mode = .bypass ∧ s.srstPath.completeDrain.alerts = (s.raise .drainDone).alerts := by
  rw [completeDrain_of_draining ((srstPath_mode s).trans hm) (srstPath_anySlotServed s)]
  refine ⟨by rw [State.raise_mode]; rfl, raise_alerts_congr ?_ _⟩
  rw [State.setMode_alerts, srstPath_alerts]

theorem srst_keeps_mode {s : State} (hm : s.mode ≠ .draining) :
    s.srstPath.completeDrain.mode = s.mode ∧ s.srstPath.completeDrain.alerts = s.alerts := by
  rw [completeDrain_of_not_draining (by rwa [srstPath_mode])]
  exact ⟨srstPath_mode s, srstPath_alerts s⟩

/-- Settles O51: SRST first takes the expiries that are due; with none due, each part of the path goes by its own lemma, and
the state it ends in names the parts that are kept. -/
theorem srstResetsThePathAndKeepsTheRest : Obligations.SrstResetsThePathAndKeepsTheRest := by
  refine ⟨fun s => ?_, fun s hs => ⟨_, exec_srst_of_noExpiryDue hs, track_of_tracker_srst rfl,
    order_of_tracker_srst rfl, rfl, rfl, srst_responseLimit _, srst_stallLimit _, rfl, rfl, srst_completes_drain,
    srst_keeps_mode, fun n => ⟨?_, fun h => ?_⟩, fun i => ⟨?_, fun h => ?_⟩,
    rfl, rfl, rfl, rfl, rfl, rfl, rfl, rfl, rfl, rfl⟩⟩
  · rw [exec_srst_eq, exec_srst_eq, s.afterExpiries_eq, s.settleTimers_settleTimers]
  · rintro ⟨e, l, hl, hn, hpass⟩
    exact slot_abandonLinked_of_pass s n hl hn ((closable_iff _ _).mpr hpass)
  · exact slot_abandonLinked_of_fail s n fun e l hl hn hc => h e l hl hn ((closable_iff _ _).mp hc)
  · rintro ⟨w, g, hw, hg, rfl, hone, hr⟩
    refine (matchEntry_discardWork_of_one_shot (s := s.abandonLinked) ?_ hg hone hr).trans ?_
    · rw [State.abandonLinked_work, hw]
    · rw [State.abandonLinked_matchEntry]
  · refine (matchEntry_discardWork_of_other i fun w g hw hg hi => ?_).trans (s.abandonLinked_matchEntry i)
    rw [State.abandonLinked_work] at hw
    exact h w g hw hg hi

end Sys2Proof.Machine
end

section
/-! PROOFS. The rows of the Classifier's work, read backwards: what a row that was taken found and did (O45). -/

namespace Sys2Proof.Machine

section Rows
variable {s t : State}

theorem exec_classify_cases (h : exec .classify s = .next t) : t = s ∨ ∃ w, s.work = some w ∧ w.stage = .lookup
    ∧ (t = (s.forward w).setWork none
      ∨ s.mode = .active ∧ ∃ i, s.governing w.request = some i ∧ t = s.govern w i) := by
  injection h with h
  subst h
  split
  · rename_i r e hw
    refine .inr ⟨_, hw, rfl, ?_⟩
    dsimp only
    split
    · exact .inl rfl
    · exact .inl rfl
    · rename_i hm
      split
      · exact .inl rfl
      · rename_i i hi
        exact .inr ⟨hm, i, hi, rfl⟩
  · exact .inl rfl

theorem exec_startTrigger_cases (h : exec .startTrigger s = .next t) : t = s ∨ ∃ w g, s.work = some w
    ∧ w.stage = .start g ∧ t = if s.mode = .active then (s.setWork (some { w with stage := .action g })).takeStart
      else s.setWork (some { w with stage := .action g }) := by
  injection h with h
  subst h
  split
  · rename_i r e g hw
    exact .inr ⟨_, g, hw, rfl, rfl⟩
  · exact .inl rfl

theorem exec_watchAction_cases (h : exec .watchAction s = .next t) : t = s ∨ ∃ w g, s.work = some w
    ∧ w.stage = .action g ∧ g.image.action = 0#8 ∧ t = s.forwardAndGoOn w g := by
  injection h with h
  subst h
  split
  · rename_i r e g hw
    split
    · rename_i ha
      exact .inr ⟨_, g, hw, rfl, (actionOf_eq_watch _).mp ha, rfl⟩
    · exact .inl rfl
  · exact .inl rfl

theorem exec_captureSlotAction_cases (h : exec .captureSlotAction s = .next t) : t = s ∨ ∃ w g, s.work = some w
    ∧ w.stage = .action g ∧ g.image.action = 1#8
    ∧ t = if s.mode = .active then s.captureToSlot w g else s.forwardAndGoOn w g := by
  injection h with h
  subst h
  split
  · rename_i r e g hw
    dsimp only
    split
    · rename_i ha
      exact .inr ⟨_, g, hw, rfl, (actionOf_eq_captureSlot _).mp ha, rfl⟩
    · exact .inl rfl
  · exact .inl rfl

theorem exec_captureQueueAction_cases (h : exec .captureQueueAction s = .next t) : t = s ∨ ∃ w g, s.work = some w
    ∧ w.stage = .action g ∧ g.image.action = 2#8
    ∧ t = if s.mode = .active then s.captureToQueue w g else s.forwardAndGoOn w g := by
  injection h with h
  subst h
  split
  · rename_i r e g hw
    dsimp only
    split
    · rename_i ha
      exact .inr ⟨_, g, hw, rfl, (actionOf_eq_captureQueue _).mp ha, rfl⟩
    · exact .inl rfl
  · exact .inl rfl

theorem exec_overlayAction_cases (h : exec .overlayAction s = .next t) : t = s ∨ ∃ w g, s.work = some w
    ∧ w.stage = .action g ∧ g.image.action = 3#8
    ∧ t = if s.mode = .active then s.overlay w g else s.forwardAndGoOn w g := by
  injection h with h
  subst h
  split
  · rename_i r e g hw
    dsimp only
    split
    · rename_i ha
      exact .inr ⟨_, g, hw, rfl, (actionOf_eq_overlay _).mp ha, rfl⟩
    · exact .inl rfl
  · exact .inl rfl

theorem exec_historyAppend_cases (h : exec .historyAppend s = .next t) : t = s ∨ ∃ w g note, s.work = some w
    ∧ w.stage = .append g note
    ∧ t = ((s.appendNote note).placeLink w.entry { slot := note.slot, sequence := note.sequence }).setWork
        (some { w with stage := .notice g }) := by
  injection h with h
  subst h
  split
  · rename_i r e g note hw
    exact .inr ⟨_, g, note, hw, rfl, rfl⟩
  · exact .inl rfl

theorem exec_recordNotice_cases (h : exec .recordNotice s = .next t) : t = s ∨ ∃ w g, s.work = some w
    ∧ w.stage = .notice g ∧ t = s.takeNotice.forwardAndGoOn w g := by
  injection h with h
  subst h
  split
  · rename_i r e g hw
    exact .inr ⟨_, g, hw, rfl, rfl⟩
  · exact .inl rfl

theorem exec_stopTrigger_cases (h : exec .stopTrigger s = .next t) : t = s ∨ ∃ w g, s.work = some w
    ∧ w.stage = .stop g ∧ t = if s.mode = .active ∧ g.stopIgnored = false then (s.afterStop w g).takeStop
      else s.afterStop w g := by
  injection h with h
  subst h
  split
  · rename_i r e g hw
    refine .inr ⟨_, g, hw, rfl, ?_⟩
    simp only [State.afterStop_mode]
  · exact .inl rfl

theorem exec_oneShotRetire_cases (h : exec .oneShotRetire s = .next t) : t = s ∨ ∃ w g, s.work = some w
    ∧ w.stage = .retire g ∧ t = (s.retire g).setWork none := by
  injection h with h
  subst h
  split
  · rename_i r e g hw
    exact .inr ⟨_, g, hw, rfl, rfl⟩
  · exact .inl rfl

end Rows

/-- A command after which the state can only be the one before changes nothing. -/
theorem exec_eq_self {c : Instr} {s : State} (h : ∀ t, exec c s = .next t → t = s) : exec c s = .next s := by
  obtain ⟨t, ht⟩ := exec_next c s
  rw [ht, h t ht]

/-- Settles O45: a row that did change the state found itself the next one, which is excluded. -/
theorem stepsThatAreNotNextChangeNothing : Obligations.StepsThatAreNotNextChangeNothing := by
  refine fun s => ⟨fun h => ?_, fun h => ?_, fun h => ?_, fun h => ?_, fun h => ?_, fun h => ?_, fun h => ?_,
    fun h => ?_, fun h => ?_, fun h => ?_⟩ <;> refine exec_eq_self fun t ht => ?_
  · exact (exec_classify_cases ht).resolve_right fun ⟨w, hw, hst, _⟩ => h w hw hst
  · exact (exec_startTrigger_cases ht).resolve_right fun ⟨w, g, hw, hst, _⟩ => h w g hw hst
  · exact (exec_watchAction_cases ht).resolve_right fun ⟨w, g, hw, hst, ha, _⟩ => h w g hw hst ha
  · exact (exec_captureSlotAction_cases ht).resolve_right fun ⟨w, g, hw, hst, ha, _⟩ => h w g hw hst ha
  · exact (exec_captureQueueAction_cases ht).resolve_right fun ⟨w, g, hw, hst, ha, _⟩ => h w g hw hst ha
  · exact (exec_overlayAction_cases ht).resolve_right fun ⟨w, g, hw, hst, ha, _⟩ => h w g hw hst ha
  · exact (exec_historyAppend_cases ht).resolve_right fun ⟨w, g, note, hw, hst, _⟩ => h w g note hw hst
  · exact (exec_recordNotice_cases ht).resolve_right fun ⟨w, g, hw, hst, _⟩ => h w g hw hst
  · exact (exec_stopTrigger_cases ht).resolve_right fun ⟨w, g, hw, hst, _⟩ => h w g hw hst
  · exact (exec_oneShotRetire_cases ht).resolve_right fun ⟨w, g, hw, hst, _⟩ => h w g hw hst

end Sys2Proof.Machine
end

section
/-! PROOFS. What every step keeps of the Tracker (O55). -/

namespace Sys2Proof.Machine

/-! ### The rows of the Classifier's work -/

section Rows
variable {s : State} {w : Work} {g : Governor}

theorem deciding_of_action (h : w.stage = .action g) : w.stage.deciding = true := by rw [h]; rfl

theorem recorded_of_action (h : w.stage = .action g) : w.stage.recorded = false := by rw [h]; rfl

/-- A step that leaves the Tracker and moves the work on among the stages before the record is made. -/
theorem trackerLegal_of_next {x : State} {stage : Stage} (hs : s.TrackerLegal) (hw : s.work = some w)
    (hd : w.stage.deciding = true) (hr : w.stage.recorded = false) (hx : x.tracker = s.tracker)
    (hxw : x.work = some { w with stage := stage }) (hd' : stage.deciding = true) : x.TrackerLegal :=
  trackerLegal_of_stage hx hw hxw (hd'.trans hd.symm) (fun _ _ => hr) hs

/-- CLASSIFY forwards or moves on to the entry's first step (R24, R25). -/
theorem classify_keeps_trackerLegal {t : State} (hs : s.TrackerLegal) (h : exec .classify s = .next t) :
    t.TrackerLegal := by
  obtain rfl | ⟨w, hw, hst, h⟩ := exec_classify_cases h
  · exact hs
  have hd : w.stage.deciding = true := by rw [hst]; rfl
  obtain rfl | ⟨_, i, _, rfl⟩ := h
  · exact forward_keeps_trackerLegal hs (decidingEntry_of_work hw hd) rfl
  · refine trackerLegal_of_next hs hw hd (by rw [hst]; rfl) rfl rfl ?_
    split <;> rfl

theorem startTrigger_keeps_trackerLegal {t : State} (hs : s.TrackerLegal) (h : exec .startTrigger s = .next t) :
    t.TrackerLegal := by
  obtain rfl | ⟨w, g, hw, hst, rfl⟩ := exec_startTrigger_cases h
  · exact hs
  have hmoved : (s.setWork (some { w with stage := .action g })).TrackerLegal :=
    trackerLegal_of_next hs hw (by rw [hst]; rfl) (by rw [hst]; rfl) rfl rfl rfl
  split
  · exact trackerLegal_of_eq (State.takeStart_tracker _) (State.takeStart_work _) hmoved
  · exact hmoved

/-- A miss counted before the forward changes nothing of it (R20). -/
theorem missAndForward_keeps_trackerLegal (hs : s.TrackerLegal) (hd : s.decidingEntry = some w.entry) :
    ((s.miss g.index).forwardAndGoOn w g).TrackerLegal :=
  forwardAndGoOn_keeps_trackerLegal (s := s.miss g.index) (trackerLegal_of_eq rfl rfl hs) g hd

theorem captureToSlot_keeps_trackerLegal (hs : s.TrackerLegal) (hw : s.work = some w) (hst : w.stage = .action g) :
    (s.captureToSlot w g).TrackerLegal := by
  have hd := deciding_of_action hst
  have hde := decidingEntry_of_work hw hd
  cases hdue : s.recordDue with
  | false =>
    rw [captureToSlot_of_not_due hdue]
    exact forwardAndGoOn_keeps_trackerLegal hs g hde
  | true =>
    cases ho : (s.slot (captureSlotOf g.image)).owner with
    | tool =>
      rw [captureToSlot_of_tool hdue ho]
      exact missAndForward_keeps_trackerLegal hs hde
    | unit =>
      rw [captureToSlot_of_unit hdue ho]
      exact trackerLegal_of_next hs hw hd (recorded_of_action hst) (s.createRecord_tracker _ _ _) rfl rfl

/-- The link of a queue record, placed after changes outside the Tracker (R85). -/
theorem linkQueueRecord_keeps_trackerLegal {x : State} (n : SlotId) (sequence : BitVec 16)
    (ht : x.tracker = s.tracker) (hxw : x.work = s.work) (hs : s.TrackerLegal) (hw : s.work = some w)
    (hd : w.stage.deciding = true) : (x.linkQueueRecord w g n sequence).TrackerLegal :=
  record_keeps_trackerLegal (trackerLegal_of_eq ht hxw hs) (hxw.trans hw) hd { slot := n, sequence := sequence }
    (.notice g) rfl rfl rfl rfl

theorem offerToQueue_keeps_trackerLegal (hs : s.TrackerLegal) (hw : s.work = some w) (hst : w.stage = .action g) :
    (s.offerToQueue w g).TrackerLegal := by
  have hd := deciding_of_action hst
  unfold State.offerToQueue
  split
  · refine linkQueueRecord_keeps_trackerLegal _ _ ?_ ?_ hs hw hd <;> split <;> simp
  · split
    · exact forwardAndGoOn_keeps_trackerLegal (countAndRaise_keeps_trackerLegal _ _ hs) g (decidingEntry_of_work hw hd)
    · exact linkQueueRecord_keeps_trackerLegal _ _ (by simp) (by simp) hs hw hd

theorem captureToQueue_keeps_trackerLegal (hs : s.TrackerLegal) (hw : s.work = some w) (hst : w.stage = .action g) :
    (s.captureToQueue w g).TrackerLegal := by
  have hforward := forwardAndGoOn_keeps_trackerLegal hs g (decidingEntry_of_work hw (deciding_of_action hst))
  unfold State.captureToQueue
  split
  · exact hforward
  · split
    · exact offerToQueue_keeps_trackerLegal hs hw hst
    · exact hforward

theorem overlay_keeps_trackerLegal (hs : s.TrackerLegal) (hw : s.work = some w) (hst : w.stage = .action g) :
    (s.overlay w g).TrackerLegal := by
  have hd := deciding_of_action hst
  have hr := recorded_of_action hst
  have hde := decidingEntry_of_work hw hd
  unfold State.overlay
  split
  · exact forwardAndGoOn_keeps_trackerLegal hs g hde
  · split
    · exact serveAndGoOn_keeps_trackerLegal hs g _ hde (unlinked_of_deciding hs hw hd hr)
    · unfold State.fallBack
      split
      · exact trackerLegal_of_next hs hw hd hr rfl rfl rfl
      · exact missAndForward_keeps_trackerLegal hs hde

/-- An action row does its action in ACTIVE and forwards in another mode (R26). -/
theorem actionRow_keeps_trackerLegal {x : State} (hs : s.TrackerLegal) (hw : s.work = some w)
    (hst : w.stage = .action g) (hx : x.TrackerLegal) :
    (if s.mode = .active then x else s.forwardAndGoOn w g).TrackerLegal := by
  split
  · exact hx
  · exact forwardAndGoOn_keeps_trackerLegal hs g (decidingEntry_of_work hw (deciding_of_action hst))

theorem historyAppend_keeps_trackerLegal {t : State} (hs : s.TrackerLegal) (h : exec .historyAppend s = .next t) :
    t.TrackerLegal := by
  obtain rfl | ⟨w, g, note, hw, hst, rfl⟩ := exec_historyAppend_cases h
  · exact hs
  have hx : (s.appendNote note).TrackerLegal :=
    trackerLegal_of_eq (s.appendNote_tracker note) (s.appendNote_work note) hs
  exact record_keeps_trackerLegal hx ((s.appendNote_work note).trans hw) (by rw [hst]; rfl) _ (.notice g) rfl rfl rfl rfl

theorem recordNotice_keeps_trackerLegal {t : State} (hs : s.TrackerLegal) (h : exec .recordNotice s = .next t) :
    t.TrackerLegal := by
  obtain rfl | ⟨w, g, hw, hst, rfl⟩ := exec_recordNotice_cases h
  · exact hs
  have hx : s.takeNotice.TrackerLegal := trackerLegal_of_eq s.takeNotice_tracker s.takeNotice_work hs
  exact forwardAndGoOn_keeps_trackerLegal hx g
    (decidingEntry_of_work (s.takeNotice_work.trans hw) (by rw [hst]; rfl))

/-- With a step after the decision next, no entry is under decision. -/
theorem decidingEntry_of_decided (hw : s.work = some w) (hd : w.stage.deciding = false) : s.decidingEntry = none := by
  simp [State.decidingEntry, hw, hd]

theorem stopTrigger_keeps_trackerLegal {t : State} (hs : s.TrackerLegal) (h : exec .stopTrigger s = .next t) :
    t.TrackerLegal := by
  obtain rfl | ⟨w, g, hw, hst, rfl⟩ := exec_stopTrigger_cases h
  · exact hs
  have hdecided := decidingEntry_of_decided hw (by rw [hst]; rfl)
  have hx : (s.afterStop w g).TrackerLegal := by
    rw [afterStop_eq]
    exact trackerLegal_of_idle (s := s) rfl hdecided (decidingEntry_afterStop w g s) hs
  split
  · exact trackerLegal_of_eq (State.takeStop_tracker _) (State.takeStop_work _) hx
  · exact hx

theorem oneShotRetire_keeps_trackerLegal {t : State} (hs : s.TrackerLegal) (h : exec .oneShotRetire s = .next t) :
    t.TrackerLegal := by
  obtain rfl | ⟨w, g, hw, hst, rfl⟩ := exec_oneShotRetire_cases h
  · exact hs
  exact trackerLegal_of_idle (s.retire_tracker g) (decidingEntry_of_decided hw (by rw [hst]; rfl)) rfl hs

end Rows

/-! ### Every command -/

/-- The Tracker, the request under classification, the mode and the capture sequence counter are as they were. -/
structure SamePath (s t : State) : Prop where
  tracker : t.tracker = s.tracker
  work : t.work = s.work
  mode : t.mode = s.mode
  captureSeq : t.captureSeq = s.captureSeq

/-- The commands that leave the Tracker, the request under classification, the mode and the capture sequence counter. -/
def LeavesPath : Instr → Prop
  | .porst | .srst | .requestAccept .. | .classify | .startTrigger | .watchAction | .captureSlotAction
  | .captureQueueAction | .overlayAction | .historyAppend | .recordNotice | .stopTrigger | .oneShotRetire | .mportSend
  | .memoryResponse .. | .tick | .responseLimitExpiry .. | .stallLimitExpiry | .arbiterGrant | .clearUnit ..
  | .enableEntry .. | .setMode .. | .releaseSlot .. | .switchBank .. | .sessionArm .. | .sessionRun ..
  | .setLimits .. => False
  | _ => True

theorem exec_samePath {c : Instr} {s t : State} (hc : LeavesPath c) (h : exec c s = .next t) : SamePath s t := by
  cases c with
  | porstRelease low => rw [execPorstRelease_frame low h]; exact ⟨rfl, rfl, rfl, rfl⟩
  | srstRelease => rw [execSrstRelease_frame h]; exact ⟨rfl, rfl, rfl, rfl⟩
  | linkFault period => rw [execLinkFault_frame period h]; exact ⟨rfl, rfl, rfl, rfl⟩
  | resync => rw [execResync_frame h]; exact ⟨rfl, rfl, rfl, rfl⟩
  | duplicate code seq => rw [execDuplicate_frame code seq h]; exact ⟨rfl, rfl, rfl, rfl⟩
  | unknownCommand code seq => rw [execUnknownCommand_frame code seq h]; exact ⟨rfl, rfl, rfl, rfl⟩
  | nop seq => rw [execNop_frame seq h]; exact ⟨rfl, rfl, rfl, rfl⟩
  | getStatus seq => rw [execGetStatus_frame seq h]; exact ⟨rfl, rfl, rfl, rfl⟩
  | writeEntry seq index image => rw [execWriteEntry_frame seq index image h]; exact ⟨rfl, rfl, rfl, rfl⟩
  | readEntry seq index => rw [execReadEntry_frame seq index h]; exact ⟨rfl, rfl, rfl, rfl⟩
  | disableEntry seq index => rw [execDisableEntry_frame seq index h]; exact ⟨rfl, rfl, rfl, rfl⟩
  | clearEntryCounts seq index => rw [execClearEntryCounts_frame seq index h]; exact ⟨rfl, rfl, rfl, rfl⟩
  | takeSlot seq slot => rw [execTakeSlot_frame seq slot h]; exact ⟨rfl, rfl, rfl, rfl⟩
  | writeSlot seq slot offset length data =>
    rw [execWriteSlot_frame seq slot offset length data h]; exact ⟨rfl, rfl, rfl, rfl⟩
  | readSlot seq slot => rw [execReadSlot_frame seq slot h]; exact ⟨rfl, rfl, rfl, rfl⟩
  | ackSlot seq slot sequence => rw [execAckSlot_frame seq slot sequence h]; exact ⟨rfl, rfl, rfl, rfl⟩
  | readHistory seq => rw [execReadHistory_frame seq h]; exact ⟨rfl, rfl, rfl, rfl⟩
  | configQueue seq first count mode watermark =>
    rw [execConfigQueue_frame seq first count mode watermark h]; exact ⟨rfl, rfl, rfl, rfl⟩
  | popQueue seq => rw [execPopQueue_frame seq h]; exact ⟨rfl, rfl, rfl, rfl⟩
  | sessionHalt seq => rw [execSessionHalt_frame seq h]; exact ⟨rfl, rfl, rfl, rfl⟩
  | sessionClear seq => rw [execSessionClear_frame seq h]; exact ⟨rfl, rfl, rfl, rfl⟩
  | setTimebase seq prescaler load value =>
    rw [execSetTimebase_frame seq prescaler load value h]; exact ⟨rfl, rfl, rfl, rfl⟩
  | readCounters seq => rw [execReadCounters_frame seq h]; exact ⟨rfl, rfl, rfl, rfl⟩
  | clearCounters seq set => rw [execClearCounters_frame seq set h]; exact ⟨rfl, rfl, rfl, rfl⟩
  | setAlertEnable seq set => rw [execSetAlertEnable_frame seq set h]; exact ⟨rfl, rfl, rfl, rfl⟩
  | ackAlert seq set => rw [execAckAlert_frame seq set h]; exact ⟨rfl, rfl, rfl, rfl⟩
  | _ => exact hc.elim

theorem enableEntry_keeps_trackerLegal (i : Fin 32) (s : State) (hs : s.TrackerLegal) :
    (enableEntry i s).1.TrackerLegal := by
  unfold enableEntry
  repeat' split
  · exact hs
  · exact hs
  · exact turnOn_keeps_trackerLegal i hs

theorem sessionArm_keeps_trackerLegal (count : Byte) (s : State) (hs : s.TrackerLegal) :
    (sessionArm count s).1.TrackerLegal := by
  unfold sessionArm
  split
  · exact trackerLegal_of_eq rfl rfl hs
  · exact leaveFrozen_keeps_trackerLegal _ hs
  all_goals exact hs

theorem sessionRun_keeps_trackerLegal (count : Byte) (s : State) (hs : s.TrackerLegal) :
    (sessionRun count s).1.TrackerLegal := by
  unfold sessionRun
  split
  · exact trackerLegal_of_eq rfl rfl hs
  · exact trackerLegal_of_eq rfl rfl hs
  · exact leaveFrozen_keeps_trackerLegal _ hs
  all_goals exact hs

theorem execTick_keeps_trackerLegal {s t : State} (hs : s.TrackerLegal) (h : exec .tick s = .next t) :
    t.TrackerLegal := by
  replace h := Host.Outcome.next.inj h
  subst h
  split
  · exact hs
  · split
    · exact trackerLegal_of_eq rfl rfl hs
    · exact tick_keeps_trackerLegal _ (settleTimers_keeps_trackerLegal hs)

/-- The taking of a command frame keeps the Tracker legal where the command's run does. -/
theorem linkExecute_keeps_trackerLegal {s : State} (code seq : Byte) (run : State → State × Answer)
    (hs : s.TrackerLegal) (hr : (run s).1.TrackerLegal) : (linkExecute code seq run s).TrackerLegal :=
  linkExecute_keeps (fun _ _ hx => trackerLegal_of_eq rfl rfl hx) code seq run hs hr

/-- Every command keeps the Tracker legal. -/
theorem exec_keeps_trackerLegal (c : Instr) (s t : State) (hs : s.TrackerLegal) (h : exec c s = .next t) :
    t.TrackerLegal := by
  have hrest : LeavesPath c → t.TrackerLegal := fun hc => by
    have hsame := exec_samePath hc h
    exact trackerLegal_of_eq hsame.tracker hsame.work hs
  cases c with
  | porst =>
    cases h
    exact trackerLegal_of_eq (s := State.reset) rfl rfl ⟨reset_entriesLegal, reset_ordersLegal, reset_sendListLegal⟩
  | srst => exact srst_makes_trackerLegal s t h
  | requestAccept request => cases h; exact accept_keeps_trackerLegal request s hs
  | classify => exact classify_keeps_trackerLegal hs h
  | startTrigger => exact startTrigger_keeps_trackerLegal hs h
  | watchAction =>
    obtain rfl | ⟨w, g, hw, hst, _, rfl⟩ := exec_watchAction_cases h
    · exact hs
    · exact forwardAndGoOn_keeps_trackerLegal hs g (decidingEntry_of_work hw (deciding_of_action hst))
  | captureSlotAction =>
    obtain rfl | ⟨w, g, hw, hst, _, rfl⟩ := exec_captureSlotAction_cases h
    · exact hs
    · exact actionRow_keeps_trackerLegal hs hw hst (captureToSlot_keeps_trackerLegal hs hw hst)
  | captureQueueAction =>
    obtain rfl | ⟨w, g, hw, hst, _, rfl⟩ := exec_captureQueueAction_cases h
    · exact hs
    · exact actionRow_keeps_trackerLegal hs hw hst (captureToQueue_keeps_trackerLegal hs hw hst)
  | overlayAction =>
    obtain rfl | ⟨w, g, hw, hst, _, rfl⟩ := exec_overlayAction_cases h
    · exact hs
    · exact actionRow_keeps_trackerLegal hs hw hst (overlay_keeps_trackerLegal hs hw hst)
  | historyAppend => exact historyAppend_keeps_trackerLegal hs h
  | recordNotice => exact recordNotice_keeps_trackerLegal hs h
  | stopTrigger => exact stopTrigger_keeps_trackerLegal hs h
  | oneShotRetire => exact oneShotRetire_keeps_trackerLegal hs h
  | mportSend => cases h; exact passOldest_keeps_trackerLegal s hs
  | memoryResponse tag status beats => exact memoryResponse_keeps_trackerLegal tag status beats s t hs h
  | tick => exact execTick_keeps_trackerLegal hs h
  | responseLimitExpiry entry => cases h; exact settleResponse_keeps_trackerLegal entry hs
  | stallLimitExpiry => cases h; exact settleStall_keeps_trackerLegal hs
  | arbiterGrant => exact arbiterGrant_keeps_trackerLegal s t hs h
  | clearUnit seq => cases h; exact linkExecute_keeps_trackerLegal _ _ _ hs (clearUnit_keeps_trackerLegal s hs)
  | enableEntry seq index =>
    cases h
    exact linkExecute_keeps_trackerLegal _ _ _ hs
      (withEntry_keeps _ _ hs fun i => enableEntry_keeps_trackerLegal i s hs)
  | setMode seq mode => cases h; exact linkExecute_keeps_trackerLegal _ _ _ hs (setMode_keeps_trackerLegal mode s hs)
  | releaseSlot seq slot =>
    cases h
    exact linkExecute_keeps_trackerLegal _ _ _ hs (withSlot_keeps _ _ hs fun n => releaseSlot_keeps_trackerLegal n s hs)
  | switchBank seq group bank =>
    cases h
    exact linkExecute_keeps_trackerLegal _ _ _ hs (switchBank_keeps_trackerLegal group bank s hs)
  | sessionArm seq count =>
    cases h
    exact linkExecute_keeps_trackerLegal _ _ _ hs (sessionArm_keeps_trackerLegal count s hs)
  | sessionRun seq count =>
    cases h
    exact linkExecute_keeps_trackerLegal _ _ _ hs (sessionRun_keeps_trackerLegal count s hs)
  | setLimits seq response stall =>
    cases h
    exact linkExecute_keeps_trackerLegal _ _ _ hs (trackerLegal_of_lists rfl rfl rfl rfl hs)
  | _ => exact hrest trivial

/-- Settles O55: the invariant goes command by command, and a step is one command. -/
theorem everyStepKeepsTheTrackerLegal : Obligations.EveryStepKeepsTheTrackerLegal :=
  keptByEveryStep_of_exec (fun _ _ hs => trackerLegal_of_eq rfl rfl hs) exec_keeps_trackerLegal

end Sys2Proof.Machine
end

section
/-! PROOFS. What every step keeps of the mode (O56). -/

namespace Sys2Proof.Machine

/-! ### The slot-served marks (R31) -/

/-- The same entries carry the slot-served mark. -/
def SameServed (s t : State) : Prop := ∀ u : Tag, (t.track u).slotServed = (s.track u).slotServed

section Served
variable {s t u : State}

theorem SameServed.refl (s : State) : SameServed s s := fun _ => rfl

theorem SameServed.trans (h : SameServed s t) (k : SameServed t u) : SameServed s u := fun e => (k e).trans (h e)

theorem sameServed_of_tracker (h : t.tracker = s.tracker) : SameServed s t := fun e => by simp only [State.track, h]

theorem anySlotServed_congr (h : SameServed s t) : t.anySlotServed = s.anySlotServed := by
  rw [Bool.eq_iff_iff, anySlotServed_iff, anySlotServed_iff]
  exact exists_congr fun e => by rw [h e]

/-- A mark is carried by HELD entries alone (R130). -/
theorem slotServed_of_not_held (hs : s.TrackerLegal) {e : Tag} (h : (s.track e).state ≠ .held) :
    (s.track e).slotServed = false := by
  obtain ⟨_, hserved, _⟩ := hs.1.1 e
  exact Bool.eq_false_iff.mpr fun hx => h (hserved hx)

theorem setTrack_sameServed {e : Tag} {x : TrackerEntry} (h : x.slotServed = (s.track e).slotServed) :
    SameServed s (s.setTrack e x) := fun v => by
  rw [State.track_setTrack]
  split
  · rename_i he
    rw [h, he]
  · rfl

/-- The entry under decision carries no mark, and a forward puts none on it. -/
theorem forward_sameServed (hs : s.TrackerLegal) {w : Work} (hd : s.decidingEntry = some w.entry) :
    SameServed s (s.forward w) := by
  obtain ⟨_, hserved, _⟩ := deciding_facts hs hd
  exact setTrack_sameServed (s := s) (e := w.entry) hserved.symm

/-- An answer that is not slot-served puts no mark on the entry under decision. -/
theorem answerLocally_sameServed (hs : s.TrackerLegal) {w : Work} (response : Response)
    (hd : s.decidingEntry = some w.entry) : SameServed s (s.answerLocally w response false) := by
  obtain ⟨_, hserved, _⟩ := deciding_facts hs hd
  exact setTrack_sameServed (s := s) (e := w.entry) hserved.symm

theorem forwardAndGoOn_sameServed (hs : s.TrackerLegal) {w : Work} (g : Governor)
    (hd : s.decidingEntry = some w.entry) : SameServed s (s.forwardAndGoOn w g) :=
  (forward_sameServed hs hd).trans (sameServed_of_tracker (State.afterAction_tracker _ w g))

theorem expireStall_sameServed (hs : s.TrackerLegal) {w : Work} (g : Governor)
    (hd : s.decidingEntry = some w.entry) : SameServed s (s.expireStall w g) :=
  (answerLocally_sameServed hs { status := .overlayUnavailable, beats := [] } hd).trans
    (sameServed_of_tracker (by simp [State.expireStall]))

theorem expireResponse_sameServed (s : State) (e : Tag) : SameServed s (s.expireResponse e) := fun v => by
  rw [State.expireResponse_track]
  split
  · rename_i he
    rw [he]
  · rfl

theorem settleResponse_sameServed (s : State) (e : Tag) : SameServed s (s.settleResponse e) := by
  unfold State.settleResponse
  split
  · exact expireResponse_sameServed s e
  · exact SameServed.refl s

theorem foldl_settleResponse_sameServed (tags : List Tag) (s : State) :
    SameServed s (tags.foldl State.settleResponse s) := by
  induction tags generalizing s with
  | nil => exact SameServed.refl s
  | cons e rest ih => exact (settleResponse_sameServed s e).trans (ih _)

theorem tick_sameServed (s : State) : SameServed s s.tick := fun e => by
  have htick : s.tick.track e = (s.track e).tick := by simp [State.track, State.tick]
  rw [htick, TrackerEntry.tick]
  split <;> rfl

theorem noticeFault_tracker (s : State) (status : MemStatus) : (s.noticeFault status).tracker = s.tracker := by
  unfold State.noticeFault
  split <;> rfl

theorem completeByResponse_sameServed (hs : s.TrackerLegal) {e : Tag} (status : MemStatus) (beats : List Beat)
    (h : (s.track e).state = .forwarded) : SameServed s (s.completeByResponse e status beats) := by
  have hserved : (s.track e).slotServed = false := slotServed_of_not_held hs (by rw [h]; simp)
  unfold State.completeByResponse
  dsimp only
  generalize hx : s.closeLink _ _ = x
  have hclosed : SameServed s x := sameServed_of_tracker (by rw [← hx, State.closeLink_tracker])
  exact hclosed.trans ((setTrack_sameServed ((hclosed e).trans hserved).symm).trans
    (sameServed_of_tracker (noticeFault_tracker _ status)))

/-- A memory response finds a FORWARDED or an ORPHANED entry, which carries no mark, or leaves the mark. -/
theorem takeResponse_sameServed (hs : s.TrackerLegal) (e : Tag) (status : MemStatus) (beats : List Beat) :
    SameServed s (s.takeResponse e status beats) := by
  unfold State.takeResponse
  split
  · rename_i hf
    split
    · exact completeByResponse_sameServed hs status beats hf
    · exact sameServed_of_tracker rfl
  · split
    · exact setTrack_sameServed (s := s) (e := e) rfl
    · exact sameServed_of_tracker rfl
  · rename_i ho
    exact setTrack_sameServed (s := s) (e := e) (slotServed_of_not_held hs (by rw [ho]; simp)).symm
  all_goals exact sameServed_of_tracker rfl

end Served

/-! ### The stall (R102) -/

section Stall
variable {s t : State}

theorem stall_congr (h : t.work = s.work) : t.stall = s.stall := by simp only [State.stall, h]

theorem stall_eq_none_iff (s : State) :
    s.stall = none ↔ ∀ w g n timer, s.work = some w → w.stage ≠ .stalled g n timer := by
  rw [Option.eq_none_iff_forall_ne_some]
  constructor
  · exact fun h w g n timer hw hst => h _ ((stall_eq_some s w g n timer).mpr ⟨hw, hst⟩)
  · rintro h ⟨w, g, n, timer⟩ hst
    obtain ⟨hw, hst⟩ := (stall_eq_some s w g n timer).mp hst
    exact h w g n timer hw hst

/-- A change within the stage that makes no stall of another step begins none. -/
theorem stall_of_mapStage {f : Stage → Stage} (hw : t.work = s.work.map fun w => { w with stage := f w.stage })
    (hf : ∀ stage g n timer, f stage = .stalled g n timer → ∃ g' timer', stage = .stalled g' n timer')
    (hs : s.stall = none) : t.stall = none := by
  rw [stall_eq_none_iff] at hs ⊢
  intro w g n timer htw hst
  rw [hw, Option.map_eq_some_iff] at htw
  obtain ⟨v, hv, rfl⟩ := htw
  obtain ⟨g', timer', hstall⟩ := hf _ _ _ _ hst
  exact hs v g' n timer' hv hstall

theorem stall_turnOn (i : Fin 32) (hs : s.stall = none) : (s.turnOn i).stall = none := by
  refine stall_of_mapStage (turnOn_eq s i ▸ rfl : (s.turnOn i).work = renewedWork i s.work) ?_ hs
  intro stage g n timer h
  cases stage <;> simp_all [Stage.mapGovernor]

theorem stall_leaveFrozen (x : Session) (hs : s.stall = none) : (s.leaveFrozen x).stall = none := by
  refine stall_of_mapStage (f := Stage.ignoreStop) rfl ?_ hs
  intro stage g n timer h
  cases stage <;> simp_all [Stage.ignoreStop]

theorem stall_tick (hs : s.stall = none) : s.tick.stall = none := by
  refine stall_of_mapStage (f := Stage.tick) s.tick_work ?_ hs
  intro stage g n timer h
  cases stage <;> simp_all [Stage.tick]

theorem afterStop_stall (s : State) (w : Work) (g : Governor) : (s.afterStop w g).stall = none := by
  unfold State.afterStop
  split <;> rfl

theorem afterAction_stall (s : State) (w : Work) (g : Governor) : (s.afterAction w g).stall = none := by
  unfold State.afterAction
  split
  · rfl
  · exact afterStop_stall s w g

end Stall

/-! ### Commands that end in no stall and leave the marks -/

/-- The same entries carry the slot-served mark, and no stall is in progress after. -/
structure Quiet (s t : State) : Prop where
  served : SameServed s t
  stall : t.stall = none

section Quiet
variable {s t u : State}

theorem Quiet.of_served (h : SameServed s t) (k : Quiet t u) : Quiet s u := ⟨h.trans k.served, k.stall⟩

theorem quiet_of_eq (ht : t.tracker = s.tracker) (hw : t.work = s.work) (hs : s.stall = none) : Quiet s t :=
  ⟨sameServed_of_tracker ht, (stall_congr hw).trans hs⟩

theorem forwardAndGoOn_quiet (hs : s.TrackerLegal) {w : Work} (g : Governor) (hd : s.decidingEntry = some w.entry) :
    Quiet s (s.forwardAndGoOn w g) := ⟨forwardAndGoOn_sameServed hs g hd, afterAction_stall _ w g⟩

theorem linkExecute_quiet (code seq : Byte) (run : State → State × Answer) (hs : s.stall = none)
    (hr : Quiet s (run s).1) : Quiet s (linkExecute code seq run s) :=
  linkExecute_keeps (inv := Quiet s) (fun _ _ hx => ⟨hx.served, hx.stall⟩) code seq run ⟨SameServed.refl s, hs⟩ hr

/-- An action row outside ACTIVE forwards (R26). -/
theorem actionRow_quiet {w : Work} {g : Governor} {x : State} (hs : s.TrackerLegal) (hm : s.mode ≠ .active)
    (hw : s.work = some w) (hst : w.stage = .action g) :
    Quiet s (if s.mode = .active then x else s.forwardAndGoOn w g) := by
  rw [if_neg hm]
  exact forwardAndGoOn_quiet hs g (decidingEntry_of_work hw (deciding_of_action hst))

theorem classify_quiet (hs : s.TrackerLegal) (hm : s.mode ≠ .active) (hstall : s.stall = none)
    (h : exec .classify s = .next t) : Quiet s t := by
  obtain rfl | ⟨w, hw, hst, rfl | ⟨hactive, _⟩⟩ := exec_classify_cases h
  · exact ⟨SameServed.refl _, hstall⟩
  · exact ⟨forward_sameServed hs (decidingEntry_of_work hw (by rw [hst]; rfl)), rfl⟩
  · exact absurd hactive hm

theorem startTrigger_quiet (hm : s.mode ≠ .active) (hstall : s.stall = none) (h : exec .startTrigger s = .next t) :
    Quiet s t := by
  obtain rfl | ⟨w, g, _, _, rfl⟩ := exec_startTrigger_cases h
  · exact ⟨SameServed.refl _, hstall⟩
  · rw [if_neg hm]
    exact ⟨SameServed.refl _, rfl⟩

theorem historyAppend_quiet (hstall : s.stall = none) (h : exec .historyAppend s = .next t) : Quiet s t := by
  obtain rfl | ⟨w, g, note, _, _, rfl⟩ := exec_historyAppend_cases h
  · exact ⟨SameServed.refl _, hstall⟩
  · exact .of_served (sameServed_of_tracker (s.appendNote_tracker note)) ⟨setTrack_sameServed rfl, rfl⟩

theorem recordNotice_quiet (hs : s.TrackerLegal) (hstall : s.stall = none) (h : exec .recordNotice s = .next t) :
    Quiet s t := by
  obtain rfl | ⟨w, g, hw, hst, rfl⟩ := exec_recordNotice_cases h
  · exact ⟨SameServed.refl _, hstall⟩
  · exact .of_served (sameServed_of_tracker s.takeNotice_tracker)
      (forwardAndGoOn_quiet (trackerLegal_of_eq s.takeNotice_tracker s.takeNotice_work hs) g
        (decidingEntry_of_work (s.takeNotice_work.trans hw) (by rw [hst]; rfl)))

theorem stopTrigger_quiet (hm : s.mode ≠ .active) (hstall : s.stall = none) (h : exec .stopTrigger s = .next t) :
    Quiet s t := by
  obtain rfl | ⟨w, g, _, _, rfl⟩ := exec_stopTrigger_cases h
  · exact ⟨SameServed.refl _, hstall⟩
  · rw [if_neg fun hx => hm hx.1]
    exact ⟨sameServed_of_tracker (s.afterStop_tracker w g), afterStop_stall s w g⟩

theorem requestAccept_quiet {r : Request} (hstall : s.stall = none) (h : exec (.requestAccept r) s = .next t) :
    Quiet s t := by
  replace h := Host.Outcome.next.inj h
  subst h
  have hsame : Quiet s s := ⟨SameServed.refl s, hstall⟩
  split
  · split
    · exact hsame
    · split
      · exact ⟨setTrack_sameServed (s := s) rfl, rfl⟩
      · exact ⟨setTrack_sameServed (s := s) rfl, hstall⟩
  · exact hsame

theorem mportSend_quiet (hstall : s.stall = none) (h : exec .mportSend s = .next t) : Quiet s t := by
  replace h := Host.Outcome.next.inj h
  subst h
  split
  · exact ⟨SameServed.refl s, hstall⟩
  · rename_i item rest _
    exact ⟨setTrack_sameServed (s := s) (e := item.entry) rfl, hstall⟩

theorem memoryResponse_quiet {e : Tag} {status : MemStatus} {beats : List Beat} (hs : s.TrackerLegal)
    (hstall : s.stall = none) (h : exec (.memoryResponse e status beats) s = .next t) : Quiet s t := by
  have hwork : t.work = s.work := by rw [execMemoryResponse_frame e status beats h]
  refine ⟨?_, (stall_congr hwork).trans hstall⟩
  replace h := Host.Outcome.next.inj h
  subst h
  split
  · exact SameServed.refl s
  · exact (settleResponse_sameServed s e).trans
      (takeResponse_sameServed (settleResponse_keeps_trackerLegal e hs) e status beats)

/-- With no stall in progress the timers that can expire are those of the response limit. -/
theorem settleTimers_quiet (hstall : s.stall = none) : Quiet s s.settleTimers := by
  have hx : ((List.finRange 16).foldl State.settleResponse s).stall = none :=
    (stall_congr (by rw [State.foldl_settleResponse_frame])).trans hstall
  rw [State.settleTimers, State.settleStall_of_not_due _ fun w g n timer h => by rw [hx] at h; cases h]
  exact ⟨foldl_settleResponse_sameServed _ s, hx⟩

theorem tick_quiet (hstall : s.stall = none) (h : exec .tick s = .next t) : Quiet s t := by
  replace h := Host.Outcome.next.inj h
  subst h
  split
  · exact ⟨SameServed.refl s, hstall⟩
  · split
    · exact quiet_of_eq rfl rfl hstall
    · have hsettled := settleTimers_quiet hstall
      exact ⟨hsettled.served.trans (tick_sameServed _), stall_tick hsettled.stall⟩

theorem clearUnit_quiet (hstall : s.stall = none) : Quiet s (clearUnit s).1 :=
  clearUnit_keeps (inv := Quiet s) ⟨SameServed.refl s, hstall⟩ ⟨SameServed.refl s, hstall⟩

theorem enableEntry_quiet (i : Fin 32) (hstall : s.stall = none) : Quiet s (enableEntry i s).1 := by
  unfold enableEntry
  repeat' split
  · exact ⟨SameServed.refl s, hstall⟩
  · exact ⟨SameServed.refl s, hstall⟩
  · exact ⟨SameServed.refl s, stall_turnOn i hstall⟩

theorem releaseSlot_quiet (n : SlotId) (hstall : s.stall = none) : Quiet s (releaseSlot n s).1 := by
  unfold releaseSlot
  split
  · exact ⟨SameServed.refl s, hstall⟩
  · simp only [hstall]
    exact ⟨SameServed.refl s, hstall⟩

theorem switchBank_quiet (group bank : Byte) (hstall : s.stall = none) : Quiet s (switchBank group bank s).1 := by
  unfold switchBank
  split
  · split
    · rename_i hgroup _ named _
      have hswitched : ({ s with banks := s.banks.set group.toNat named } : State).stall = none := hstall
      unfold setBank
      split
      · exact ⟨SameServed.refl s, hstall⟩
      · simp only [State.rederiveGroup, hswitched]
        exact ⟨SameServed.refl s, hstall⟩
    · exact ⟨SameServed.refl s, hstall⟩
  · exact ⟨SameServed.refl s, hstall⟩

theorem sessionArm_quiet (count : Byte) (hstall : s.stall = none) : Quiet s (sessionArm count s).1 := by
  unfold sessionArm
  split
  · exact quiet_of_eq rfl rfl hstall
  · exact ⟨SameServed.refl s, stall_leaveFrozen _ hstall⟩
  all_goals exact ⟨SameServed.refl s, hstall⟩

theorem sessionRun_quiet (count : Byte) (hstall : s.stall = none) : Quiet s (sessionRun count s).1 := by
  unfold sessionRun
  split
  · exact quiet_of_eq rfl rfl hstall
  · exact quiet_of_eq rfl rfl hstall
  · exact ⟨SameServed.refl s, stall_leaveFrozen _ hstall⟩
  all_goals exact ⟨SameServed.refl s, hstall⟩

end Quiet

/-- The commands that leave the mode as it is. -/
def KeepsMode : Instr → Prop
  | .porst | .srst | .arbiterGrant | .setMode .. => False
  | _ => True

theorem exec_mode {c : Instr} {s t : State} (hc : KeepsMode c) (h : exec c s = .next t) : t.mode = s.mode := by
  have hrest : LeavesPath c → t.mode = s.mode := fun hl => (exec_samePath hl h).mode
  cases c with
  | porst | srst | arbiterGrant | setMode => exact hc.elim
  | requestAccept r => rw [execRequestAccept_frame r h]
  | classify => rw [execClassify_frame h]
  | startTrigger => rw [execStartTrigger_frame h]
  | watchAction => rw [execWatchAction_frame h]
  | captureSlotAction => rw [execCaptureSlotAction_frame h]
  | captureQueueAction => rw [execCaptureQueueAction_frame h]
  | overlayAction => rw [execOverlayAction_frame h]
  | historyAppend => rw [execHistoryAppend_frame h]
  | recordNotice => rw [execRecordNotice_frame h]
  | stopTrigger => rw [execStopTrigger_frame h]
  | oneShotRetire => rw [execOneShotRetire_frame h]
  | mportSend => rw [execMportSend_frame h]
  | memoryResponse e status beats => rw [execMemoryResponse_frame e status beats h]
  | tick => rw [execTick_frame h]
  | responseLimitExpiry e => rw [execResponseLimitExpiry_frame e h]
  | stallLimitExpiry => rw [execStallLimitExpiry_frame h]
  | clearUnit seq => rw [execClearUnit_frame seq h]
  | enableEntry seq index => rw [execEnableEntry_frame seq index h]
  | releaseSlot seq slot => rw [execReleaseSlot_frame seq slot h]
  | switchBank seq group bank => rw [execSwitchBank_frame seq group bank h]
  | sessionArm seq count => rw [execSessionArm_frame seq count h]
  | sessionRun seq count => rw [execSessionRun_frame seq count h]
  | setLimits seq response stall => rw [execSetLimits_frame seq response stall h]
  | _ => exact hrest trivial

/-- Outside ACTIVE, where no stall lasts, a command that leaves the mode serves nothing from a slot, sends no response,
and begins no stall (R26, R32). -/
theorem exec_quiet {c : Instr} {s t : State} (hc : KeepsMode c) (hs : s.TrackerLegal) (hm : s.mode ≠ .active)
    (hstall : s.stall = none) (h : exec c s = .next t) : Quiet s t := by
  have hsame : Quiet s s := ⟨SameServed.refl s, hstall⟩
  have hrest : LeavesPath c → Quiet s t := fun hl => by
    have hpath := exec_samePath hl h
    exact quiet_of_eq hpath.tracker hpath.work hstall
  cases c with
  | porst | srst | arbiterGrant | setMode => exact hc.elim
  | requestAccept r => exact requestAccept_quiet hstall h
  | classify => exact classify_quiet hs hm hstall h
  | startTrigger => exact startTrigger_quiet hm hstall h
  | watchAction =>
    obtain rfl | ⟨w, g, hw, hst, _, rfl⟩ := exec_watchAction_cases h
    · exact hsame
    · exact forwardAndGoOn_quiet hs g (decidingEntry_of_work hw (deciding_of_action hst))
  | captureSlotAction =>
    obtain rfl | ⟨w, g, hw, hst, _, rfl⟩ := exec_captureSlotAction_cases h
    · exact hsame
    · exact actionRow_quiet hs hm hw hst
  | captureQueueAction =>
    obtain rfl | ⟨w, g, hw, hst, _, rfl⟩ := exec_captureQueueAction_cases h
    · exact hsame
    · exact actionRow_quiet hs hm hw hst
  | overlayAction =>
    obtain rfl | ⟨w, g, hw, hst, _, rfl⟩ := exec_overlayAction_cases h
    · exact hsame
    · exact actionRow_quiet hs hm hw hst
  | historyAppend => exact historyAppend_quiet hstall h
  | recordNotice => exact recordNotice_quiet hs hstall h
  | stopTrigger => exact stopTrigger_quiet hm hstall h
  | oneShotRetire =>
    obtain rfl | ⟨w, g, _, _, rfl⟩ := exec_oneShotRetire_cases h
    · exact hsame
    · exact ⟨sameServed_of_tracker (s.retire_tracker g), rfl⟩
  | mportSend => exact mportSend_quiet hstall h
  | memoryResponse e status beats => exact memoryResponse_quiet hs hstall h
  | tick => exact tick_quiet hstall h
  | responseLimitExpiry e =>
    cases h
    exact ⟨settleResponse_sameServed s e, (stall_congr (s.settleResponse_work e)).trans hstall⟩
  | stallLimitExpiry =>
    cases h
    rw [s.settleStall_of_not_due fun w g n timer hx => by rw [hstall] at hx; cases hx]
    exact hsame
  | clearUnit seq => cases h; exact linkExecute_quiet _ _ _ hstall (clearUnit_quiet hstall)
  | enableEntry seq index =>
    cases h
    exact linkExecute_quiet _ _ _ hstall
      (withEntry_keeps (inv := Quiet s) _ _ hsame fun i => enableEntry_quiet i hstall)
  | releaseSlot seq slot =>
    cases h
    exact linkExecute_quiet _ _ _ hstall
      (withSlot_keeps (inv := Quiet s) _ _ hsame fun n => releaseSlot_quiet n hstall)
  | switchBank seq group bank => cases h; exact linkExecute_quiet _ _ _ hstall (switchBank_quiet group bank hstall)
  | sessionArm seq count => cases h; exact linkExecute_quiet _ _ _ hstall (sessionArm_quiet count hstall)
  | sessionRun seq count => cases h; exact linkExecute_quiet _ _ _ hstall (sessionRun_quiet count hstall)
  | setLimits seq response stall =>
    cases h
    exact linkExecute_quiet _ _ _ hstall ⟨SameServed.refl s, hstall⟩
  | _ => exact hrest trivial

/-! ### The mode (R32, R34, R38) -/

section Legal
variable {s t : State}

theorem modeLegal_of_active (h : s.mode = .active) : s.ModeLegal :=
  ⟨fun hm => (by rw [h] at hm; cases hm), fun hm => (by rw [h] at hm; cases hm), fun _ => h⟩

theorem modeLegal_of_same (hs : s.ModeLegal) (hm : t.mode = s.mode) (hv : SameServed s t)
    (hst : t.stall.isSome → s.stall.isSome) : t.ModeLegal := by
  obtain ⟨hbypass, hdraining, hstall⟩ := hs
  unfold State.ModeLegal
  rw [hm, anySlotServed_congr hv]
  exact ⟨hbypass, hdraining, fun h => hstall (hst h)⟩

theorem stall_of_not_active (hs : s.ModeLegal) (hm : s.mode ≠ .active) : s.stall = none := by
  obtain ⟨_, _, hstall⟩ := hs
  exact Option.not_isSome_iff_eq_none.mp fun h => hm (hstall h)

/-- The drain check leaves the mode legal where BYPASS and the stall already are (R34). -/
theorem completeDrain_modeLegal (hb : s.mode = .bypass → s.anySlotServed = false)
    (hst : s.stall.isSome → s.mode = .active) : s.completeDrain.ModeLegal := by
  by_cases hdrained : s.mode = .draining ∧ s.anySlotServed = false
  · obtain ⟨hm, hnone⟩ := hdrained
    rw [completeDrain_of_draining hm hnone]
    refine ⟨fun _ => hnone, fun h => (by cases h), fun h => ?_⟩
    have hactive := hst h
    rw [hm] at hactive
    cases hactive
  · rw [State.completeDrain, if_neg hdrained]
    refine ⟨hb, fun hm => ?_, hst⟩
    by_contra hnone
    exact hdrained ⟨hm, Bool.eq_false_iff.mpr hnone⟩

/-- A stall that the mode leaving ACTIVE ends is over, and its request is not slot-served (R38, R107). -/
theorem endStallByMode_quiet (hs : s.TrackerLegal) : Quiet s s.endStallByMode := by
  unfold State.endStallByMode
  split
  · rename_i hstall
    exact ⟨SameServed.refl s, hstall⟩
  · rename_i w g n timer hstall
    obtain ⟨_, hd, _, _⟩ := stall_facts hstall
    split
    · exact ⟨expireStall_sameServed hs g hd, s.expireStall_stall w g⟩
    · exact .of_served (forward_sameServed hs hd)
        ⟨sameServed_of_tracker (State.afterStop_tracker _ w g), afterStop_stall _ w g⟩

theorem endStallByMode_mode (s : State) : s.endStallByMode.mode = s.mode := by
  unfold State.endStallByMode
  repeat' split
  all_goals simp

/-- The mode leaves ACTIVE for DRAINING where a slot-served answer is held, and for BYPASS where none is (R33). -/
theorem leaveActive_modeLegal {m : Mode} (hs : s.TrackerLegal) (hb : m = .bypass → s.anySlotServed = false)
    (hd : m = .draining → s.anySlotServed = true) :
    (s.setMode m).endStallByMode.ModeLegal := by
  obtain ⟨hserved, hstall⟩ := endStallByMode_quiet (s := s.setMode m) (trackerLegal_of_eq rfl rfl hs)
  have hany : (s.setMode m).endStallByMode.anySlotServed = s.anySlotServed := anySlotServed_congr hserved
  unfold State.ModeLegal
  rw [endStallByMode_mode, hany, hstall]
  exact ⟨hb, hd, fun h => by cases h⟩

theorem setMode_modeLegal (mode : Byte) (hk : s.TrackerLegal) (hs : s.ModeLegal) : (setMode mode s).1.ModeLegal := by
  unfold setMode
  split
  · unfold modeBypass
    split
    · exact hs
    · exact hs
    · split
      · rename_i hany
        exact leaveActive_modeLegal hk (fun h => by cases h) fun _ => hany
      · rename_i hany
        exact leaveActive_modeLegal hk (fun _ => Bool.eq_false_iff.mpr hany) fun h => by cases h
  · exact modeLegal_of_active rfl
  · exact hs

/-- The state in which a granted entry has left its list, before the check of the drain (R137). -/
def State.entryLeft (s : State) (src : SourceId) (e : Tag) : State :=
  let left := (s.setTrack e ((s.track e).cleared (if (s.track e).orphan then .orphaned else .free))).setOrder src
    ((s.order src).drop 1)
  { left with
    tracker := { left.tracker with pointer := src }
    sportResponse := (s.track e).buffer.map fun b =>
      { source := (s.track e).source, status := b.status, beats := b.beats } }

theorem release_eq (s : State) (src : SourceId) (e : Tag) :
    s.release src e = (s.entryLeft src e).slotServedLeft (s.track e).slotServed := rfl

/-- An entry that leaves carries no mark after, and the drain check follows where it did (R137, R34). -/
theorem release_modeLegal (src : SourceId) (e : Tag) (hs : s.ModeLegal) : (s.release src e).ModeLegal := by
  rw [release_eq]
  cases hserved : (s.track e).slotServed with
  | false =>
    have hcleared : SameServed s
        (s.setTrack e ((s.track e).cleared (if (s.track e).orphan then .orphaned else .free))) :=
      setTrack_sameServed hserved.symm
    exact modeLegal_of_same hs rfl hcleared id
  | true =>
    obtain ⟨hbypass, _, hstall⟩ := hs
    refine completeDrain_modeLegal (fun hm => ?_) hstall
    have hnone := (anySlotServed_eq_false s).mp (hbypass hm)
    rw [hnone e] at hserved
    cases hserved

theorem arbiterGrant_modeLegal (hs : s.ModeLegal) (h : exec .arbiterGrant s = .next t) : t.ModeLegal := by
  replace h := Host.Outcome.next.inj h
  subst h
  split
  · exact hs
  · split
    · exact hs
    · exact release_modeLegal _ _ hs

theorem srst_modeLegal (h : exec .srst s = .next t) : t.ModeLegal := by
  rw [exec_srst_eq] at h
  replace h := Host.Outcome.next.inj h
  subst h
  have hserved := srstPath_anySlotServed s.settleTimers
  have hstall : s.settleTimers.srstPath.stall = none := (stall_eq_none_iff _).mpr (by simp [State.srstPath])
  generalize s.settleTimers.srstPath = x at hserved hstall
  exact modeLegal_of_same (completeDrain_modeLegal (fun _ => hserved) fun hx => by rw [hstall] at hx; cases hx) rfl
    (SameServed.refl _) id

end Legal

/-- Every command that starts from a legal Tracker keeps the mode legal: in ACTIVE nothing is asked, and elsewhere a
command that leaves the mode is quiet. -/
theorem exec_keeps_modeLegal (c : Instr) (s t : State) (hk : s.TrackerLegal) (hs : s.ModeLegal)
    (h : exec c s = .next t) : t.ModeLegal := by
  have hrest : KeepsMode c → t.ModeLegal := fun hc => by
    have hmode := exec_mode hc h
    by_cases hm : s.mode = .active
    · exact modeLegal_of_active (hmode.trans hm)
    · obtain ⟨hserved, hstall⟩ := exec_quiet hc hk hm (stall_of_not_active hs hm) h
      exact modeLegal_of_same hs hmode hserved fun hx => by rw [hstall] at hx; cases hx
  cases c with
  | porst => cases h; exact modeLegal_of_same reset_modeLegal rfl (SameServed.refl _) id
  | srst => exact srst_modeLegal h
  | arbiterGrant => exact arbiterGrant_modeLegal hs h
  | setMode seq mode =>
    cases h
    exact linkExecute_keeps (fun _ _ hx => hx) _ _ _ hs (setMode_modeLegal mode hk hs)
  | _ => exact hrest trivial

/-- Settles O56: a step is one command, and the waiting commands are no part of the Tracker or the mode. -/
theorem everyStepKeepsTheModeLegal : Obligations.EveryStepKeepsTheModeLegal := by
  intro s t hk hs h
  unfold step at h
  split at h
  · cases h
    exact hs
  · rename_i c rest _
    have hk' : State.TrackerLegal { s with pending := rest } := trackerLegal_of_eq (s := s) rfl rfl hk
    exact exec_keeps_modeLegal c _ t hk' hs h

end Sys2Proof.Machine
end

section
/-! PROOFS. Where capture numbers go, and the capture queue's action (O42, O59). -/

namespace Sys2Proof.Machine

/-! ### Records (R47, R57) -/

section Record
variable (s : State) (n : SlotId) (r : Request) (capture : Bool)

theorem createRecord_captureSeq : (s.createRecord n r capture).captureSeq = s.captureSeq + 1 := by
  unfold State.createRecord
  split <;> rfl

theorem createRecord_slot_self : (s.createRecord n r capture).slot n = newRecord s r capture (s.slot n) := by
  have hmade : (s.createRecord n r capture).slots = (s.setSlot n (newRecord s r capture (s.slot n))).slots := by
    unfold State.createRecord
    split <;> rfl
  rw [State.slot, hmade]
  exact s.slot_setSlot_self n _

end Record

/-- A record made in a slot under the number the counter held, which the counter then passes (R57). -/
structure RecordMade (s t : State) (n : SlotId) : Prop where
  seq : t.captureSeq = s.captureSeq + 1
  held : (t.slot n).record = .held
  sequence : (t.slot n).sequence = s.captureSeq
  outcome : (t.slot n).outcome = .pending

/-- A record is made where a creation access was, whatever else a row does outside the slots and the counter. -/
theorem recordMade_of_created {s t : State} {n : SlotId} {r : Request} {capture : Bool}
    (hseq : t.captureSeq = (s.createRecord n r capture).captureSeq)
    (hslots : t.slots = (s.createRecord n r capture).slots) : RecordMade s t n := by
  have hslot : t.slot n = newRecord s r capture (s.slot n) := by
    rw [← createRecord_slot_self, State.slot, hslots]
    rfl
  exact ⟨hseq.trans (createRecord_captureSeq s n r capture), by rw [hslot]; rfl, by rw [hslot]; rfl,
    by rw [hslot]; rfl⟩

/-! ### The capture queue's action (R29, R85 to R88) -/

section Queue
variable {s : State} {w : Work} {g : Governor}

theorem exec_captureQueueAction_of_captureQueue (hw : s.work = some w) (hst : w.stage = .action g)
    (ha : g.image.action = 2#8) :
    exec .captureQueueAction s = .next (if s.mode = .active then s.captureToQueue w g else s.forwardAndGoOn w g) := by
  obtain ⟨r, t, stage⟩ := w
  subst hst
  simp only [exec, execCaptureQueueAction, hw, (actionOf_eq_captureQueue _).mpr ha, if_true]

/-- The slot of a position of the run, where the run lies within the Slot Store (R80). -/
theorem slotAt_eq {q : Queue} {p : Nat} {n : SlotId} (h : n.val = q.first + p) : q.slotAt p = n := by
  simp [Queue.slotAt, ← h]

theorem slotAt_val (q : Queue) (p : Nat) : (q.slotAt p).val = (q.first + p) % 64 := rfl

theorem captureToQueue_of_none (h : s.recordDue = false ∨ s.queue.count = 0) :
    s.captureToQueue w g = s.forwardAndGoOn w g := if_pos h

theorem captureToQueue_of_tool (ho : s.queueSlotOwner = .tool) : s.captureToQueue w g = s.forwardAndGoOn w g := by
  unfold State.captureToQueue
  split
  · rfl
  · rw [ho]

theorem captureToQueue_of_unit (hdue : s.recordDue = true) (hc : s.queue.count ≠ 0) (ho : s.queueSlotOwner = .unit) :
    s.captureToQueue w g = s.offerToQueue w g := by
  rw [State.captureToQueue, if_neg (by simp [hdue, hc]), ho]

theorem queueSlotOwner_of_room (h : s.queue.occupancy < s.queue.count) :
    s.queueSlotOwner = (s.slot (s.queue.slotAt s.queue.next)).owner := if_pos h

theorem queueSlotOwner_of_full (h : s.queue.count ≤ s.queue.occupancy) :
    s.queueSlotOwner = (s.slot (s.queue.slotAt s.queue.oldest)).owner := if_neg (Nat.not_lt.mpr h)

theorem offerToQueue_of_room (h : s.queue.occupancy < s.queue.count) : s.offerToQueue w g = s.enqueue w g := if_pos h

theorem offerToQueue_of_ring (h : s.queue.count ≤ s.queue.occupancy) (hm : s.queue.mode = .ring) :
    s.offerToQueue w g = s.replaceOldest w g := by
  rw [State.offerToQueue, if_neg (Nat.not_lt.mpr h), hm]

theorem offerToQueue_of_stopWhenFull (h : s.queue.count ≤ s.queue.occupancy) (hm : s.queue.mode = .stopWhenFull) :
    s.offerToQueue w g = s.dropCapture w g := by
  rw [State.offerToQueue, if_neg (Nat.not_lt.mpr h), hm]

theorem enqueue_recordMade (s : State) (w : Work) (g : Governor) :
    RecordMade s (s.enqueue w g) (s.queue.slotAt s.queue.next) := by
  refine recordMade_of_created (r := w.request) (capture := false) ?_ ?_ <;>
    simp only [State.enqueue, State.linkQueueRecord, State.setWork_captureSeq, State.setWork_slots,
      State.placeLink_captureSeq, State.placeLink_slots] <;> split <;> rfl

theorem replaceOldest_recordMade (s : State) (w : Work) (g : Governor) :
    RecordMade s (s.replaceOldest w g) (s.queue.slotAt s.queue.oldest) :=
  recordMade_of_created (r := w.request) (capture := false) rfl rfl

/-- Settles O42: by the mode and the session, then by the owner that the offer finds, the room and the mode of the
queue. -/
theorem captureQueueActionRecordsReplacesOrDrops : Obligations.CaptureQueueActionRecordsReplacesOrDrops := by
  intro s w g hw hst ha
  rw [exec_captureQueueAction_of_captureQueue hw hst ha]
  refine ⟨fun h => ?_, fun hm hdue => ?_⟩
  · by_cases hm : s.mode = .active
    · have hnone : s.recordDue = false ∨ s.queue.count = 0 := by
        rw [Bool.eq_false_iff, ne_eq, recordDue_iff, not_or]
        exact h.resolve_left (not_not_intro hm)
      rw [if_pos hm, captureToQueue_of_none hnone, State.forwardAndGoOn]
    · rw [if_neg hm, State.forwardAndGoOn]
  · rw [if_pos hm]
    have hdue := (recordDue_iff s).mpr hdue
    refine ⟨fun n hroom hn ho made hmade => ?_, fun n hc hfull hmode hn ho => ?_, fun n hc hfull hmode hn ho => ?_,
      fun n hn ho => ?_⟩
    · have hslot : s.queue.slotAt s.queue.next = n := slotAt_eq hn
      have howner : s.queueSlotOwner = .unit := by rw [queueSlotOwner_of_room hroom, hslot, ho]
      rw [captureToQueue_of_unit hdue (by omega) howner, offerToQueue_of_room hroom, State.enqueue, hslot, ← hmade]
      subst hmade
      split <;> simp [State.linkQueueRecord, State.placeLink]
    · have hslot : s.queue.slotAt s.queue.oldest = n := slotAt_eq hn
      have howner : s.queueSlotOwner = .unit := by rw [queueSlotOwner_of_full hfull, hslot, ho]
      rw [captureToQueue_of_unit hdue hc howner, offerToQueue_of_ring hfull hmode, State.replaceOldest, hslot]
      simp [State.linkQueueRecord, State.placeLink, Queue.advance]
    · have hslot : s.queue.slotAt s.queue.oldest = n := slotAt_eq hn
      have howner : s.queueSlotOwner = .unit := by rw [queueSlotOwner_of_full hfull, hslot, ho]
      rw [captureToQueue_of_unit hdue hc howner, offerToQueue_of_stopWhenFull hfull hmode, State.dropCapture,
        State.forwardAndGoOn]
    · have howner : s.queueSlotOwner = .tool := by
        by_cases hroom : s.queue.occupancy < s.queue.count
        · rw [if_pos hroom] at hn
          rw [queueSlotOwner_of_room hroom, Queue.next, slotAt_eq hn, ho]
        · rw [if_neg hroom] at hn
          rw [queueSlotOwner_of_full (Nat.not_lt.mp hroom), slotAt_eq hn, ho]
      rw [captureToQueue_of_tool howner, State.forwardAndGoOn]

end Queue

/-! ### The capture sequence counter (R57) -/

section CaptureSeq
variable {s t : State}

/-- The commands that neither make a record nor reset the capture sequence counter. -/
def KeepsCaptureSeq : Instr → Prop
  | .porst | .clearUnit .. | .captureSlotAction | .captureQueueAction => False
  | _ => True

theorem exec_captureSeq {c : Instr} (hc : KeepsCaptureSeq c) (h : exec c s = .next t) :
    t.captureSeq = s.captureSeq := by
  have hrest : LeavesPath c → t.captureSeq = s.captureSeq := fun hl => (exec_samePath hl h).captureSeq
  cases c with
  | porst | clearUnit | captureSlotAction | captureQueueAction => exact hc.elim
  | srst => rw [execSrst_frame h]
  | requestAccept request => rw [execRequestAccept_frame request h]
  | classify => rw [execClassify_frame h]
  | startTrigger => rw [execStartTrigger_frame h]
  | watchAction => rw [execWatchAction_frame h]
  | overlayAction => rw [execOverlayAction_frame h]
  | historyAppend => rw [execHistoryAppend_frame h]
  | recordNotice => rw [execRecordNotice_frame h]
  | stopTrigger => rw [execStopTrigger_frame h]
  | oneShotRetire => rw [execOneShotRetire_frame h]
  | mportSend => rw [execMportSend_frame h]
  | memoryResponse tag status beats => rw [execMemoryResponse_frame tag status beats h]
  | tick => rw [execTick_frame h]
  | responseLimitExpiry entry => rw [execResponseLimitExpiry_frame entry h]
  | stallLimitExpiry => rw [execStallLimitExpiry_frame h]
  | arbiterGrant => rw [execArbiterGrant_frame h]
  | enableEntry seq index => rw [execEnableEntry_frame seq index h]
  | setMode seq mode => rw [execSetMode_frame seq mode h]
  | releaseSlot seq slot => rw [execReleaseSlot_frame seq slot h]
  | switchBank seq group bank => rw [execSwitchBank_frame seq group bank h]
  | sessionArm seq count => rw [execSessionArm_frame seq count h]
  | sessionRun seq count => rw [execSessionRun_frame seq count h]
  | setLimits seq response stall => rw [execSetLimits_frame seq response stall h]
  | _ => exact hrest trivial

theorem captureToSlot_recordMade (s : State) (w : Work) (g : Governor) :
    (s.captureToSlot w g).captureSeq = s.captureSeq ∨ RecordMade s (s.captureToSlot w g) (captureSlotOf g.image) := by
  cases hdue : s.recordDue with
  | false => exact .inl (by rw [captureToSlot_of_not_due hdue, State.forwardAndGoOn_captureSeq])
  | true =>
    cases ho : (s.slot (captureSlotOf g.image)).owner with
    | tool =>
      exact .inl (by rw [captureToSlot_of_tool hdue ho, State.forwardAndGoOn_captureSeq, State.miss_captureSeq])
    | unit =>
      rw [captureToSlot_of_unit hdue ho]
      exact .inr (recordMade_of_created rfl rfl)

/-- The position that an offer to the queue writes: the next while there is room, and otherwise the oldest (R85, R88). -/
def Queue.offered (q : Queue) : Nat := if q.occupancy < q.count then q.next else q.oldest

theorem offerToQueue_recordMade (s : State) (w : Work) (g : Governor) :
    (s.offerToQueue w g).captureSeq = s.captureSeq
      ∨ RecordMade s (s.offerToQueue w g) (s.queue.slotAt s.queue.offered) := by
  by_cases hroom : s.queue.occupancy < s.queue.count
  · rw [offerToQueue_of_room hroom, Queue.offered, if_pos hroom]
    exact .inr (enqueue_recordMade s w g)
  · have hfull := Nat.not_lt.mp hroom
    cases hmode : s.queue.mode with
    | stopWhenFull =>
      rw [offerToQueue_of_stopWhenFull hfull hmode, State.dropCapture]
      exact .inl (by rw [State.forwardAndGoOn_captureSeq, State.countAndRaise_captureSeq])
    | ring =>
      rw [offerToQueue_of_ring hfull hmode, Queue.offered, if_neg hroom]
      exact .inr (replaceOldest_recordMade s w g)

theorem captureToQueue_recordMade (s : State) (w : Work) (g : Governor) :
    (s.captureToQueue w g).captureSeq = s.captureSeq
      ∨ RecordMade s (s.captureToQueue w g) (s.queue.slotAt s.queue.offered) := by
  unfold State.captureToQueue
  split
  · exact .inl (s.forwardAndGoOn_captureSeq w g)
  · split
    · exact offerToQueue_recordMade s w g
    · exact .inl (s.forwardAndGoOn_captureSeq w g)

/-- A record is made only where the action row does its action, which is in ACTIVE (R26). -/
theorem actionRow_recordMade {w : Work} {g : Governor} {x : State} {n : SlotId}
    (hx : x.captureSeq = s.captureSeq ∨ RecordMade s x n)
    (ht : t = if s.mode = .active then x else s.forwardAndGoOn w g) :
    t.captureSeq = s.captureSeq ∨ RecordMade s t n := by
  subst ht
  split
  · exact hx
  · exact .inl (s.forwardAndGoOn_captureSeq w g)

/-- CLEAR_UNIT sets the counter to 0 where it is accepted (R161). -/
theorem exec_clearUnit_captureSeq {seq : Byte} (h : exec (.clearUnit seq) s = .next t) :
    t.captureSeq = s.captureSeq ∨ t.captureSeq = 0 := by
  cases h
  rcases linkExecute_cases 0x03#8 seq clearUnit s with e | e | e <;> rw [e]
  · exact .inl s.deselect_captureSeq
  · exact .inl s.replay_captureSeq
  · rw [State.store_captureSeq]
    unfold clearUnit
    split
    · exact .inr rfl
    · exact .inl rfl

/-- WRITE_SLOT leaves a UNIT-owned slot as it is (R55). -/
theorem exec_writeSlot_of_unit {n : SlotId} {seq slot offset length : Byte} {data : Line}
    (ho : (s.slot n).owner = .unit) (h : exec (.writeSlot seq slot offset length data) s = .next t) :
    t.slot n = s.slot n := by
  cases h
  refine linkExecute_slot _ _ _ s n (· = s.slot n) rfl (withSlot_slot _ _ s n (· = s.slot n) rfl fun m _ => ?_)
  obtain hsame | ⟨rfl, htool, _⟩ := writeSlot_slot offset length data m s n
  · exact hsame
  · rw [ho] at htool
    cases htool

/-- Settles O59: the two capture rows by what they make, PORST and CLEAR_UNIT by what they restore, and every other
command by its frame. -/
theorem captureNumbersAreTakenByRecordsAlone : Obligations.CaptureNumbersAreTakenByRecordsAlone := by
  refine ⟨fun s t n seq slot offset length data ho h => exec_writeSlot_of_unit ho h, fun c s t h => ?_⟩
  have hrest : KeepsCaptureSeq c → t.captureSeq = s.captureSeq := fun hc => exec_captureSeq hc h
  cases c with
  | porst => cases h; exact .inr (.inr ⟨.inl rfl, rfl⟩)
  | clearUnit seq =>
    obtain hkept | hzero := exec_clearUnit_captureSeq h
    · exact .inl hkept
    · exact .inr (.inr ⟨.inr ⟨seq, rfl⟩, hzero⟩)
  | captureSlotAction =>
    obtain rfl | ⟨w, g, hw, hst, _, ht⟩ := exec_captureSlotAction_cases h
    · exact .inl rfl
    obtain hkept | hmade := actionRow_recordMade (captureToSlot_recordMade s w g) ht
    · exact .inl hkept
    · exact .inr (.inl ⟨.inl rfl, hmade.seq, w, g, _, hw, hst, rfl, hmade.held, hmade.sequence, hmade.outcome⟩)
  | captureQueueAction =>
    obtain rfl | ⟨w, g, hw, hst, _, ht⟩ := exec_captureQueueAction_cases h
    · exact .inl rfl
    obtain hkept | hmade := actionRow_recordMade (captureToQueue_recordMade s w g) ht
    · exact .inl hkept
    · exact .inr (.inl ⟨.inr rfl, hmade.seq, w, g, _, hw, hst, slotAt_val _ _, hmade.held, hmade.sequence,
        hmade.outcome⟩)
  | _ => exact .inl (hrest trivial)

end CaptureSeq

end Sys2Proof.Machine
end

section
/-! PROOFS. SET_MODE, acceptance, the ends of the action, the triggers and the arbiter (O17, O35, O36, O38, O50). -/

namespace Sys2Proof.Machine

/-! ### SET_MODE (R33, R38) -/

section SetMode
variable {s : State} {seq mode : Byte} {m : Mode}

theorem setMode_of_other (h : mode.toNat ≥ 2) : setMode mode s = (s, badArg .field) := by
  unfold setMode
  split
  · omega
  · omega
  · rfl

theorem setMode_of_active (h : mode.toNat = 1) : setMode mode s = (s.setMode .active, answer .ok) := by
  rw [setMode, h]
  rfl

theorem setMode_of_bypass (h : mode.toNat = 0) : setMode mode s = modeBypass s := by
  rw [setMode, h]
  rfl

theorem modeBypass_of_bypass (h : s.mode = .bypass) : modeBypass s = (s, answer .ok) := by rw [modeBypass, h]

theorem modeBypass_of_draining (h : s.mode = .draining) : modeBypass s = (s, answer .accepted) := by
  rw [modeBypass, h]

/-- The mode leaves ACTIVE for DRAINING, or for BYPASS with no slot-served answer held (R33). -/
theorem modeBypass_of_active {status : Status} (hm : s.mode = .active)
    (h : (m = .draining ∧ status = .accepted ∧ ∃ t : Tag, (s.track t).slotServed = true)
      ∨ (m = .bypass ∧ status = .ok ∧ ∀ t : Tag, (s.track t).slotServed = false)) :
    modeBypass s = ((s.setMode m).endStallByMode, answer status) := by
  rw [modeBypass, hm]
  obtain ⟨rfl, rfl, hserved⟩ | ⟨rfl, rfl, hnone⟩ := h
  · simp only [(anySlotServed_iff s).mpr hserved, if_true]
  · simp only [(anySlotServed_eq_false s).mpr hnone, Bool.false_eq_true, if_false]

theorem endStallByMode_of_none (h : s.stall = none) : s.endStallByMode = s := by
  rw [State.endStallByMode, h]

theorem endStallByMode_of_due {w : Work} {g : Governor} {n : SlotId} (h : s.stall = some (w, g, n, .expiryDue)) :
    s.endStallByMode = s.expireStall w g := by
  rw [State.endStallByMode, h]
  exact if_pos rfl

theorem endStallByMode_of_not_due {w : Work} {g : Governor} {n : SlotId} {timer : LimitTimer}
    (h : s.stall = some (w, g, n, timer)) (ht : timer ≠ .expiryDue) :
    s.endStallByMode = (s.forward w).afterStop w g := by
  rw [State.endStallByMode, h]
  exact if_neg ht

/-- The expiry of the stall limit reads no mode. -/
theorem expireStall_setMode (s : State) (m : Mode) (w : Work) (g : Governor) :
    (s.setMode m).expireStall w g = (s.expireStall w g).setMode m := by
  rw [State.expireStall, State.expireStall, afterAction_eq, afterAction_eq]
  rfl

theorem exec_setMode_of_executes {t : State} {a : Answer} (hx : s.Executes 0x18#8 seq) (h : setMode mode s = (t, a)) :
    exec (.setMode seq mode) s = .next (t.store 0x18#8 seq a) := by
  show Host.Outcome.next (linkExecute 0x18#8 seq (setMode mode) s) = _
  rw [linkExecute_of_executes hx, h]

/-- Settles O17: by the argument, the mode and the slot-served answers held, and then by the stall that the mode ends. -/
theorem setModeFollowsTheTable : Obligations.SetModeFollowsTheTable := by
  intro s seq mode hx
  refine ⟨fun h => exec_setMode_of_executes hx (setMode_of_other h),
    fun h => exec_setMode_of_executes hx (setMode_of_active h),
    fun h hm => exec_setMode_of_executes hx ((setMode_of_bypass h).trans (modeBypass_of_bypass hm)),
    fun h hm => exec_setMode_of_executes hx ((setMode_of_bypass h).trans (modeBypass_of_draining hm)),
    fun left status hleft h hm => ?_⟩
  have hexec := exec_setMode_of_executes hx ((setMode_of_bypass h).trans (modeBypass_of_active hm hleft))
  refine ⟨fun hs => ?_, fun w g n timer hs ht => ?_, fun w g n t hs ht => ?_⟩
  · rw [hexec, endStallByMode_of_none (s := s.setMode left) hs]
  · rw [hexec, endStallByMode_of_not_due (s := s.setMode left) hs ht, afterStop_eq]
  · have hsettled : s.expireStall w g = t :=
      (s.settleStall_of_due hs).symm.trans (Host.Outcome.next.inj ht)
    rw [hexec, endStallByMode_of_due (s := s.setMode left) hs, expireStall_setMode, hsettled]

end SetMode

/-! ### Acceptance (R128, R129) -/

section Acceptance
variable {s : State} {r : Request}

theorem portOpen_iff (s : State) :
    s.portOpen = true ↔ s.work = none ∧ s.srstAsserted = false ∧ s.porstAsserted = false := by
  simp [State.portOpen, and_assoc]

theorem lowestFree_eq_some (s : State) (t : Tag) :
    s.lowestFree = some t ↔ (s.track t).state = .free ∧ ∀ u < t, (s.track u).state ≠ .free := by
  rw [State.lowestFree, find_finRange]
  simp

theorem lowestFree_eq_none (s : State) : s.lowestFree = none ↔ ∀ t : Tag, (s.track t).state ≠ .free := by
  simp [State.lowestFree, List.find?_eq_none]

theorem acceptable_iff (r : Request) :
    acceptable r = true ↔ r.address.extractLsb' 0 3 = 0 ∧ 1 ≤ r.beats
      ∧ (r.address.extractLsb' 3 3).toNat + r.beats ≤ 8 := by
  unfold acceptable firstBeat
  simp only [Bool.and_eq_true, decide_eq_true_eq, beq_iff_eq, and_assoc]
  exact and_congr_right fun _ => and_congr_right fun _ => ⟨fun h => h.2, fun h => ⟨by omega, h⟩⟩

theorem exec_requestAccept_of_closed (h : ¬ s.portOpen = true) : exec (.requestAccept r) s = .next s :=
  congrArg Host.Outcome.next (if_neg h)

theorem exec_requestAccept_of_full (h : s.lowestFree = none) : exec (.requestAccept r) s = .next s := by
  simp only [exec, execRequestAccept, h, ite_self]

theorem exec_requestAccept_of_free {t : Tag} (hp : s.portOpen = true) (h : s.lowestFree = some t) :
    exec (.requestAccept r) s = .next (if acceptable r then s.acceptValid t r else s.acceptRejected t r) := by
  simp only [exec, execRequestAccept, hp, h, if_true]

/-- Settles O35: by the conditions of the port, and then by the acceptance checks. -/
theorem acceptanceTakesTheLowestFreeEntry : Obligations.AcceptanceTakesTheLowestFreeEntry := by
  intro s r
  refine ⟨fun h => ?_, fun t hw hsrst hporst hfree hlow => ?_⟩
  · by_cases hp : s.portOpen = true
    · obtain ⟨hw, hsrst, hporst⟩ := (portOpen_iff s).mp hp
      refine exec_requestAccept_of_full ((lowestFree_eq_none s).mpr ?_)
      simpa [hw, hsrst, hporst] using h
    · exact exec_requestAccept_of_closed hp
  · rw [exec_requestAccept_of_free ((portOpen_iff s).mpr ⟨hw, hsrst, hporst⟩)
      ((lowestFree_eq_some s t).mpr ⟨hfree, hlow⟩)]
    refine ⟨fun h => ?_, fun h => ?_⟩
    · rw [if_pos ((acceptable_iff r).mpr h), State.acceptValid]
    · have hfail : ¬ acceptable r = true := by
        rw [acceptable_iff]
        rintro ⟨haddress, hone, hline⟩
        rcases h with h | h | h
        · exact h haddress
        · omega
        · omega
      rw [if_neg hfail]
      rfl

end Acceptance

/-! ### After the decision (R25, R132) -/

/-- Settles O36: forwarding and answering as they are defined, and the steps that follow by their tests. -/
theorem forwardingAndAnsweringJoinTheLists : Obligations.ForwardingAndAnsweringJoinTheLists := by
  intro s w g response served
  exact ⟨by rw [State.forward, loadTimer]; rfl, rfl, afterAction_eq s w g, rfl⟩

/-! ### The triggers (R115, R116) -/

section Triggers
variable {s : State} {w : Work} {g : Governor}

theorem takeStart_of_armed (h : s.session.state = .armed) :
    s.takeStart = s.setSession { s.session with state := .running } := by rw [State.takeStart, h]

theorem takeStart_of_not_armed (h : s.session.state ≠ .armed) : s.takeStart = s := by
  unfold State.takeStart
  split
  · exact absurd ‹_› h
  all_goals rfl

theorem takeStop_of_running (h : s.session.state = .running) (hr : s.session.remaining ≠ 0) :
    s.takeStop = s.setSession { s.session with state := .stopping } := by
  rw [State.takeStop, h]
  exact if_neg hr

theorem takeStop_of_running_zero (h : s.session.state = .running) (hr : s.session.remaining = 0) :
    s.takeStop = s.freeze 0 := by
  rw [State.takeStop, h]
  exact if_pos hr

theorem takeStop_of_not_running (h : s.session.state ≠ .running) : s.takeStop = s := by
  unfold State.takeStop
  split
  · exact absurd ‹_› h
  all_goals rfl

theorem exec_startTrigger_of_start (hw : s.work = some w) (hst : w.stage = .start g) :
    exec .startTrigger s = .next (if s.mode = .active
      then (s.setWork (some { w with stage := .action g })).takeStart
      else s.setWork (some { w with stage := .action g })) := by
  obtain ⟨r, t, stage⟩ := w
  subst hst
  simp only [exec, execStartTrigger, hw]
  rfl

theorem exec_stopTrigger_of_stop (hw : s.work = some w) (hst : w.stage = .stop g) :
    exec .stopTrigger s = .next (if s.mode = .active ∧ g.stopIgnored = false then (s.afterStop w g).takeStop
      else s.afterStop w g) := by
  obtain ⟨r, t, stage⟩ := w
  subst hst
  simp only [exec, execStopTrigger, hw, State.afterStop_mode]

/-- Settles O38: by the mode, and then by the session that the trigger finds. -/
theorem triggersStartAndStopTheSession : Obligations.TriggersStartAndStopTheSession := by
  refine ⟨fun s w g hw hst => ?_, fun s w g t hw hst ht => ?_⟩
  · rw [exec_startTrigger_of_start hw hst]
    refine ⟨fun hm hs => ?_, fun h => ?_⟩
    · rw [if_pos hm, takeStart_of_armed (by exact hs), State.setWork_session]
    · by_cases hm : s.mode = .active
      · have hs : s.session.state ≠ .armed := h.resolve_left (not_not_intro hm)
        rw [if_pos hm, takeStart_of_not_armed (by exact hs)]
      · rw [if_neg hm]
  · rw [exec_stopTrigger_of_stop hw hst, afterStop_eq, ← ht]
    have hsession : t.session = s.session := by rw [ht, State.setWork_session]
    refine ⟨fun hm hi hs hr => ?_, fun hm hi hs hr => ?_, fun h => ?_⟩
    · rw [if_pos ⟨hm, hi⟩, takeStop_of_running (by rw [hsession, hs]) (by rwa [hsession]), hsession]
    · rw [if_pos ⟨hm, hi⟩, takeStop_of_running_zero (by rw [hsession, hs]) (by rw [hsession, hr]), State.freeze]
    · by_cases hgiven : s.mode = .active ∧ g.stopIgnored = false
      · have hs : s.session.state ≠ .running := by simpa [hgiven] using h
        rw [if_pos hgiven, takeStop_of_not_running (by rwa [hsession])]
      · rw [if_neg hgiven]

end Triggers

/-! ### The arbiter (R137) -/

section Arbiter
variable {s : State}

theorem readyHead_eq_some (s : State) (src : SourceId) (t : Tag) :
    s.readyHead src = some t ↔ (∃ rest, s.order src = t :: rest) ∧ (s.track t).state = .held := by
  unfold State.readyHead
  cases s.order src with
  | nil => simp
  | cons u rest =>
    by_cases hu : (s.track u).state = .held
    · simp only [hu, if_true, Option.some.injEq, List.cons.injEq]
      exact ⟨fun h => by subst h; exact ⟨⟨rest, rfl, rfl⟩, hu⟩, fun ⟨⟨_, h, _⟩, _⟩ => h⟩
    · simp only [hu, if_false, List.cons.injEq, reduceCtorEq, false_iff]
      rintro ⟨⟨_, rfl, _⟩, h⟩
      exact hu h

/-- How far the rotation of the arbiter is from the source after the pointer to a source. -/
def rotation (pointer src : SourceId) : Nat := (src.val + 63 - pointer.val) % 64

theorem length_grantOrder (pointer : SourceId) : (grantOrder pointer).length = 64 := by simp [grantOrder]

theorem getElem_grantOrder (pointer : SourceId) {i : Nat} (h : i < (grantOrder pointer).length) :
    (grantOrder pointer)[i] = Fin.ofNat 64 (pointer.val + 1 + i) := by simp [grantOrder]

theorem rotation_lt (pointer src : SourceId) : rotation pointer src < (grantOrder pointer).length := by
  rw [length_grantOrder]
  exact Nat.mod_lt _ (by omega)

theorem grantOrder_rotation (pointer src : SourceId) :
    (grantOrder pointer)[rotation pointer src]'(rotation_lt pointer src) = src := by
  rw [getElem_grantOrder, Fin.ext_iff, Fin.val_ofNat, rotation]
  omega

theorem rotation_grantOrder (pointer : SourceId) {i : Nat} (h : i < (grantOrder pointer).length) :
    rotation pointer (grantOrder pointer)[i] = i := by
  rw [length_grantOrder] at h
  rw [getElem_grantOrder, rotation, Fin.val_ofNat]
  omega

/-- The source granted is the ready one that comes first in the rotation. -/
theorem granted_eq_some {src : SourceId} (hready : (s.readyHead src).isSome)
    (hfirst : ∀ other, other ≠ src → (s.readyHead other).isSome →
      rotation s.tracker.pointer src < rotation s.tracker.pointer other) : s.granted = some src := by
  rw [State.granted, List.find?_eq_some_iff_getElem]
  refine ⟨hready, _, rotation_lt s.tracker.pointer src, grantOrder_rotation _ _, fun j hj => ?_⟩
  have hlt : j < (grantOrder s.tracker.pointer).length := hj.trans (rotation_lt _ src)
  have hrotation := rotation_grantOrder s.tracker.pointer hlt
  generalize (grantOrder s.tracker.pointer)[j] = other at hrotation ⊢
  rw [Bool.not_eq_true', Bool.eq_false_iff]
  intro hother
  by_cases hne : other = src
  · rw [hne] at hrotation
    omega
  · have := hfirst other hne hother
    omega

theorem granted_eq_none (h : ∀ src, s.readyHead src = none) : s.granted = none := by
  simp [State.granted, h]

theorem exec_arbiterGrant_of_none (h : s.granted = none) : exec .arbiterGrant s = .next s := by
  simp only [exec, execArbiterGrant, h]

theorem exec_arbiterGrant_of_granted {src : SourceId} {t : Tag} (h : s.granted = some src)
    (ht : s.readyHead src = some t) : exec .arbiterGrant s = .next (s.release src t) := by
  simp only [exec, execArbiterGrant, h, ht]

theorem slotServedLeft_of_kept (h : s.mode ≠ .draining ∨ ∃ u : Tag, (s.track u).slotServed = true) :
    s.slotServedLeft true = s := by
  show s.completeDrain = s
  refine if_neg fun ⟨hm, hnone⟩ => ?_
  obtain ⟨u, hu⟩ := h.resolve_left (not_not_intro hm)
  rw [(anySlotServed_eq_false s).mp hnone u] at hu
  cases hu

theorem slotServedLeft_of_drained (hm : s.mode = .draining) (h : ∀ u : Tag, (s.track u).slotServed = false) :
    s.slotServedLeft true = (s.setMode .bypass).raise .drainDone :=
  completeDrain_of_draining hm ((anySlotServed_eq_false s).mpr h)

/-- The entry that leaves, with the list and the response it had. -/
theorem entryLeft_eq {src : SourceId} {t : Tag} {rest : List Tag} {b : Response} (ho : s.order src = t :: rest)
    (hb : (s.track t).buffer = some b) (hsrc : (s.track t).source = src) {sent : State}
    (hsent : sent = { (s.setTrack t
        { s.track t with
          state := if (s.track t).orphan = true then .orphaned else .free
          link := none, slotServed := false, orphan := false, buffer := none
          timer := .unlimited }).setOrder src rest with
        sportResponse := some { source := src, status := b.status, beats := b.beats } }) :
    s.entryLeft src t = { sent with tracker := { sent.tracker with pointer := src } } := by
  subst hsrc
  rw [hsent, State.entryLeft, ho, hb]
  rfl

/-- Settles O50: by the rotation to the source granted, then by what leaves and the check of the drain. -/
theorem arbiterGrantsTheNextReadySource : Obligations.ArbiterGrantsTheNextReadySource := by
  refine fun s => ⟨fun h => ?_, ?_⟩
  · refine exec_arbiterGrant_of_none (granted_eq_none fun src => Option.eq_none_iff_forall_ne_some.mpr fun t ht => ?_)
    obtain ⟨⟨rest, ho⟩, hheld⟩ := (readyHead_eq_some s src t).mp ht
    exact h src t rest ho hheld
  · rintro src t rest e b ho rfl hheld hb hsrc hfirst
    have hready : s.readyHead src = some t := (readyHead_eq_some s src t).mpr ⟨⟨rest, ho⟩, hheld⟩
    have hgranted : s.granted = some src := by
      refine granted_eq_some (by rw [hready]; rfl) fun other hne hother => ?_
      obtain ⟨u, hu⟩ := Option.isSome_iff_exists.mp hother
      obtain ⟨⟨tail, hou⟩, huheld⟩ := (readyHead_eq_some s other u).mp hu
      exact hfirst other u tail hne hou huheld
    refine ⟨_, rfl, ?_, fun x => ⟨rfl, slotServedLeft_of_kept, slotServedLeft_of_drained⟩⟩
    rw [exec_arbiterGrant_of_granted hgranted hready, release_eq, entryLeft_eq ho hb hsrc rfl]

end Arbiter

end Sys2Proof.Machine
end

section
/-! PROOFS. What every step keeps of the ranges, and who writes a TOOL-owned slot (O53, O58). -/

namespace Sys2Proof.Machine

/-! ### Which commands can change an item with a range -/

/-- The commands that can change the Arrival History. -/
def TouchesHistory : Instr → Prop
  | .porst | .clearUnit .. | .historyAppend | .readHistory .. | .sessionClear .. => True
  | _ => False

/-- The commands that can change the Time Base. -/
def TouchesTimeBase : Instr → Prop
  | .porst | .tick | .setTimebase .. => True
  | _ => False

/-- The commands that can change the session. -/
def TouchesSession : Instr → Prop
  | .porst | .clearUnit .. | .startTrigger | .recordNotice | .stopTrigger | .sessionArm .. | .sessionRun ..
  | .sessionHalt .. | .sessionClear .. => True
  | _ => False

/-- The commands that can change the queue. -/
def TouchesQueue : Instr → Prop
  | .porst | .clearUnit .. | .captureQueueAction | .configQueue .. | .popQueue .. | .sessionClear .. => True
  | _ => False

/-- Each item with a range is as it was, or the command is one that can change it. -/
structure RangedFrame (c : Instr) (s t : State) : Prop where
  history : TouchesHistory c ∨ t.history = s.history
  timeBase : TouchesTimeBase c ∨ t.timeBase = s.timeBase
  session : TouchesSession c ∨ t.session = s.session
  queue : TouchesQueue c ∨ t.queue = s.queue

theorem exec_rangedFrame {c : Instr} {s t : State} (h : exec c s = .next t) : RangedFrame c s t := by
  cases c with
  | porst => exact ⟨.inl trivial, .inl trivial, .inl trivial, .inl trivial⟩
  | clearUnit seq =>
    rw [execClearUnit_frame seq h]; exact ⟨.inl trivial, .inr rfl, .inl trivial, .inl trivial⟩
  | historyAppend => rw [execHistoryAppend_frame h]; exact ⟨.inl trivial, .inr rfl, .inr rfl, .inr rfl⟩
  | readHistory seq => rw [execReadHistory_frame seq h]; exact ⟨.inl trivial, .inr rfl, .inr rfl, .inr rfl⟩
  | sessionClear seq =>
    rw [execSessionClear_frame seq h]; exact ⟨.inl trivial, .inr rfl, .inl trivial, .inl trivial⟩
  | tick => rw [execTick_frame h]; exact ⟨.inr rfl, .inl trivial, .inr rfl, .inr rfl⟩
  | setTimebase seq prescaler load value =>
    rw [execSetTimebase_frame seq prescaler load value h]; exact ⟨.inr rfl, .inl trivial, .inr rfl, .inr rfl⟩
  | startTrigger => rw [execStartTrigger_frame h]; exact ⟨.inr rfl, .inr rfl, .inl trivial, .inr rfl⟩
  | recordNotice => rw [execRecordNotice_frame h]; exact ⟨.inr rfl, .inr rfl, .inl trivial, .inr rfl⟩
  | stopTrigger => rw [execStopTrigger_frame h]; exact ⟨.inr rfl, .inr rfl, .inl trivial, .inr rfl⟩
  | sessionArm seq count =>
    rw [execSessionArm_frame seq count h]; exact ⟨.inr rfl, .inr rfl, .inl trivial, .inr rfl⟩
  | sessionRun seq count =>
    rw [execSessionRun_frame seq count h]; exact ⟨.inr rfl, .inr rfl, .inl trivial, .inr rfl⟩
  | sessionHalt seq => rw [execSessionHalt_frame seq h]; exact ⟨.inr rfl, .inr rfl, .inl trivial, .inr rfl⟩
  | captureQueueAction =>
    rw [execCaptureQueueAction_frame h]; exact ⟨.inr rfl, .inr rfl, .inr rfl, .inl trivial⟩
  | configQueue seq first count mode watermark =>
    rw [execConfigQueue_frame seq first count mode watermark h]; exact ⟨.inr rfl, .inr rfl, .inr rfl, .inl trivial⟩
  | popQueue seq => rw [execPopQueue_frame seq h]; exact ⟨.inr rfl, .inr rfl, .inr rfl, .inl trivial⟩
  | porstRelease low => rw [execPorstRelease_frame low h]; exact ⟨.inr rfl, .inr rfl, .inr rfl, .inr rfl⟩
  | srst => rw [execSrst_frame h]; exact ⟨.inr rfl, .inr rfl, .inr rfl, .inr rfl⟩
  | srstRelease => rw [execSrstRelease_frame h]; exact ⟨.inr rfl, .inr rfl, .inr rfl, .inr rfl⟩
  | requestAccept request => rw [execRequestAccept_frame request h]; exact ⟨.inr rfl, .inr rfl, .inr rfl, .inr rfl⟩
  | classify => rw [execClassify_frame h]; exact ⟨.inr rfl, .inr rfl, .inr rfl, .inr rfl⟩
  | watchAction => rw [execWatchAction_frame h]; exact ⟨.inr rfl, .inr rfl, .inr rfl, .inr rfl⟩
  | captureSlotAction => rw [execCaptureSlotAction_frame h]; exact ⟨.inr rfl, .inr rfl, .inr rfl, .inr rfl⟩
  | overlayAction => rw [execOverlayAction_frame h]; exact ⟨.inr rfl, .inr rfl, .inr rfl, .inr rfl⟩
  | oneShotRetire => rw [execOneShotRetire_frame h]; exact ⟨.inr rfl, .inr rfl, .inr rfl, .inr rfl⟩
  | mportSend => rw [execMportSend_frame h]; exact ⟨.inr rfl, .inr rfl, .inr rfl, .inr rfl⟩
  | memoryResponse tag status beats =>
    rw [execMemoryResponse_frame tag status beats h]; exact ⟨.inr rfl, .inr rfl, .inr rfl, .inr rfl⟩
  | responseLimitExpiry entry =>
    rw [execResponseLimitExpiry_frame entry h]; exact ⟨.inr rfl, .inr rfl, .inr rfl, .inr rfl⟩
  | stallLimitExpiry => rw [execStallLimitExpiry_frame h]; exact ⟨.inr rfl, .inr rfl, .inr rfl, .inr rfl⟩
  | arbiterGrant => rw [execArbiterGrant_frame h]; exact ⟨.inr rfl, .inr rfl, .inr rfl, .inr rfl⟩
  | linkFault period => rw [execLinkFault_frame period h]; exact ⟨.inr rfl, .inr rfl, .inr rfl, .inr rfl⟩
  | resync => rw [execResync_frame h]; exact ⟨.inr rfl, .inr rfl, .inr rfl, .inr rfl⟩
  | duplicate code seq => rw [execDuplicate_frame code seq h]; exact ⟨.inr rfl, .inr rfl, .inr rfl, .inr rfl⟩
  | unknownCommand code seq =>
    rw [execUnknownCommand_frame code seq h]; exact ⟨.inr rfl, .inr rfl, .inr rfl, .inr rfl⟩
  | nop seq => rw [execNop_frame seq h]; exact ⟨.inr rfl, .inr rfl, .inr rfl, .inr rfl⟩
  | getStatus seq => rw [execGetStatus_frame seq h]; exact ⟨.inr rfl, .inr rfl, .inr rfl, .inr rfl⟩
  | writeEntry seq index image =>
    rw [execWriteEntry_frame seq index image h]; exact ⟨.inr rfl, .inr rfl, .inr rfl, .inr rfl⟩
  | readEntry seq index => rw [execReadEntry_frame seq index h]; exact ⟨.inr rfl, .inr rfl, .inr rfl, .inr rfl⟩
  | enableEntry seq index => rw [execEnableEntry_frame seq index h]; exact ⟨.inr rfl, .inr rfl, .inr rfl, .inr rfl⟩
  | disableEntry seq index => rw [execDisableEntry_frame seq index h]; exact ⟨.inr rfl, .inr rfl, .inr rfl, .inr rfl⟩
  | clearEntryCounts seq index =>
    rw [execClearEntryCounts_frame seq index h]; exact ⟨.inr rfl, .inr rfl, .inr rfl, .inr rfl⟩
  | setMode seq mode => rw [execSetMode_frame seq mode h]; exact ⟨.inr rfl, .inr rfl, .inr rfl, .inr rfl⟩
  | takeSlot seq slot => rw [execTakeSlot_frame seq slot h]; exact ⟨.inr rfl, .inr rfl, .inr rfl, .inr rfl⟩
  | releaseSlot seq slot => rw [execReleaseSlot_frame seq slot h]; exact ⟨.inr rfl, .inr rfl, .inr rfl, .inr rfl⟩
  | writeSlot seq slot offset length data =>
    rw [execWriteSlot_frame seq slot offset length data h]; exact ⟨.inr rfl, .inr rfl, .inr rfl, .inr rfl⟩
  | readSlot seq slot => rw [execReadSlot_frame seq slot h]; exact ⟨.inr rfl, .inr rfl, .inr rfl, .inr rfl⟩
  | ackSlot seq slot sequence =>
    rw [execAckSlot_frame seq slot sequence h]; exact ⟨.inr rfl, .inr rfl, .inr rfl, .inr rfl⟩
  | switchBank seq group bank =>
    rw [execSwitchBank_frame seq group bank h]; exact ⟨.inr rfl, .inr rfl, .inr rfl, .inr rfl⟩
  | setLimits seq response stall =>
    rw [execSetLimits_frame seq response stall h]; exact ⟨.inr rfl, .inr rfl, .inr rfl, .inr rfl⟩
  | readCounters seq => rw [execReadCounters_frame seq h]; exact ⟨.inr rfl, .inr rfl, .inr rfl, .inr rfl⟩
  | clearCounters seq set => rw [execClearCounters_frame seq set h]; exact ⟨.inr rfl, .inr rfl, .inr rfl, .inr rfl⟩
  | setAlertEnable seq set =>
    rw [execSetAlertEnable_frame seq set h]; exact ⟨.inr rfl, .inr rfl, .inr rfl, .inr rfl⟩
  | ackAlert seq set => rw [execAckAlert_frame seq set h]; exact ⟨.inr rfl, .inr rfl, .inr rfl, .inr rfl⟩

/-! ### The Arrival History (R75) -/

section History
variable {s t : State}

/-- A full list drops its oldest note for the one appended (R77). -/
theorem appendNote_historyBounded (note : Note) (hs : s.HistoryBounded) : (s.appendNote note).HistoryBounded := by
  unfold State.HistoryBounded at *
  unfold State.appendNote
  split
  · rename_i hroom
    have hlt : s.history.length < 32 := hroom
    simp only [List.length_append, List.length_singleton]
    omega
  · simp only [State.countAndRaise_history, List.length_append, List.length_drop, List.length_singleton]
    omega

theorem readHistory_historyBounded (hs : s.HistoryBounded) : (readHistory s).1.HistoryBounded := by
  unfold readHistory
  split
  · exact hs
  · rw [State.HistoryBounded, List.length_drop]
    exact (Nat.sub_le _ _).trans hs

theorem sessionClear_historyBounded (hs : s.HistoryBounded) : (sessionClear s).1.HistoryBounded := by
  unfold sessionClear
  split
  · exact Nat.zero_le _
  · exact Nat.zero_le _
  all_goals exact hs

theorem exec_keeps_historyBounded (c : Instr) (s t : State) (hs : s.HistoryBounded) (h : exec c s = .next t) :
    t.HistoryBounded := by
  have hlink : ∀ (x : State) l, x.HistoryBounded → ({ x with toolLink := l } : State).HistoryBounded :=
    fun _ _ hx => hx
  obtain htouch | hkept := (exec_rangedFrame h).history
  · cases c
    case porst => cases h; exact Nat.zero_le _
    case clearUnit seq => cases h; exact linkExecute_keeps hlink _ _ _ hs (clearUnit_keeps hs (Nat.zero_le _))
    case historyAppend =>
      obtain rfl | ⟨w, g, note, _, _, rfl⟩ := exec_historyAppend_cases h
      · exact hs
      · exact appendNote_historyBounded note hs
    case readHistory seq => cases h; exact linkExecute_keeps hlink _ _ _ hs (readHistory_historyBounded hs)
    case sessionClear seq => cases h; exact linkExecute_keeps hlink _ _ _ hs (sessionClear_historyBounded hs)
    all_goals exact htouch.elim
  · rw [State.HistoryBounded, hkept]
    exact hs

end History

/-! ### The Time Base (R164, R165) -/

section TimeBase
variable {s t : State}

theorem tick_timeBase (s : State) : s.tick.timeBase = s.timeBase.tick := rfl

/-- A tick brings a legal pending prescaler into force, if any, and returns the phase to 0 (R165). -/
theorem tick_timeBaseLegal (hs : s.TimeBaseLegal) (ht : t.timeBase = s.timeBase.tick) : t.TimeBaseLegal := by
  obtain ⟨hlow, hhigh, _, hwaiting⟩ := hs
  rw [State.TimeBaseLegal, ht]
  unfold TimeBase.tick
  split
  · rename_i hnone
    exact ⟨hlow, hhigh, hlow, fun p hp => hwaiting p hp⟩
  · rename_i p hsome
    obtain ⟨hplow, hphigh⟩ := hwaiting p hsome
    exact ⟨hplow, hphigh, hplow, fun q hq => nomatch hq⟩

theorem execTick_timeBaseLegal (hs : s.TimeBaseLegal) (h : execTick s = .next t) : t.TimeBaseLegal := by
  injection h with h
  subst h
  split
  · exact hs
  · split
    · rename_i hphase
      obtain ⟨hlow, hhigh, _, hwaiting⟩ := hs
      exact ⟨hlow, hhigh, hphase, hwaiting⟩
    · refine tick_timeBaseLegal hs ?_
      rw [tick_timeBase, s.settleTimers_timeBase]

theorem setTimebase_timeBaseLegal (prescaler : HalfWord) (load : Byte) (value : Stamp) (hs : s.TimeBaseLegal) :
    (setTimebase prescaler load value s).1.TimeBaseLegal := by
  unfold setTimebase
  split
  · rename_i hrange
    split
    · obtain ⟨hlow, hhigh, hphase, _⟩ := hs
      refine ⟨hlow, hhigh, hphase, fun p hp => ?_⟩
      cases hp
      exact hrange
    · exact hs
  · exact hs

theorem exec_keeps_timeBaseLegal (c : Instr) (s t : State) (hs : s.TimeBaseLegal) (h : exec c s = .next t) :
    t.TimeBaseLegal := by
  obtain htouch | hkept := (exec_rangedFrame h).timeBase
  · cases c
    case porst => cases h; exact reset_timeBaseLegal
    case tick => exact execTick_timeBaseLegal hs h
    case setTimebase seq prescaler load value =>
      cases h
      exact linkExecute_keeps (fun _ _ hx => hx) _ _ _ hs (setTimebase_timeBaseLegal prescaler load value hs)
    all_goals exact htouch.elim
  · rw [State.TimeBaseLegal, hkept]
    exact hs

end TimeBase

/-! ### The session (R113, R118) -/

section Session
variable {s t : State}

theorem sessionLegal_of_eq (h : t.session = s.session) (hs : s.SessionLegal) : t.SessionLegal := by
  rw [State.SessionLegal, h]
  exact hs

/-- Nothing is asked of a session that is neither STOPPING nor IDLE. -/
theorem sessionLegal_of_state (hstopping : s.session.state ≠ .stopping) (hidle : s.session.state ≠ .idle) :
    s.SessionLegal := ⟨fun h => absurd h hstopping, fun h => absurd h hidle⟩

theorem freeze_sessionLegal (remaining : BitVec 8) : (s.freeze remaining).SessionLegal :=
  sessionLegal_of_state nofun nofun

theorem takeStart_sessionLegal (hs : s.SessionLegal) : s.takeStart.SessionLegal := by
  unfold State.takeStart
  split
  · exact sessionLegal_of_state nofun nofun
  all_goals exact hs

/-- A STOP leaves RUNNING for STOPPING with a count remaining, and for FROZEN with none (R116). -/
theorem takeStop_sessionLegal (hs : s.SessionLegal) : s.takeStop.SessionLegal := by
  unfold State.takeStop
  split
  · split
    · exact freeze_sessionLegal 0
    · rename_i hremaining
      exact ⟨fun _ => hremaining, nofun⟩
  all_goals exact hs

/-- The notice of the last record due freezes the session, and one before it leaves a count of 1 or more (R118). -/
theorem takeNotice_sessionLegal (hs : s.SessionLegal) : s.takeNotice.SessionLegal := by
  unfold State.takeNotice
  split
  · rename_i hstopping
    split
    · exact freeze_sessionLegal 0
    · rename_i hmore
      refine ⟨fun _ hzero => hmore ?_, fun hidle => ?_⟩
      · change s.session.remaining - 1#8 = 0 at hzero
        bv_omega
      · change s.session.state = .idle at hidle
        rw [hstopping] at hidle
        cases hidle
  all_goals exact hs

theorem sessionArm_sessionLegal (count : Byte) (hs : s.SessionLegal) : (sessionArm count s).1.SessionLegal := by
  unfold sessionArm
  split
  · exact sessionLegal_of_state nofun nofun
  · exact sessionLegal_of_state nofun nofun
  all_goals exact hs

theorem sessionRun_sessionLegal (count : Byte) (hs : s.SessionLegal) : (sessionRun count s).1.SessionLegal := by
  unfold sessionRun
  split
  · exact sessionLegal_of_state nofun nofun
  · exact sessionLegal_of_state nofun nofun
  · exact sessionLegal_of_state nofun nofun
  all_goals exact hs

theorem sessionHalt_sessionLegal (hs : s.SessionLegal) : (sessionHalt s).1.SessionLegal := by
  unfold sessionHalt
  split
  · exact freeze_sessionLegal _
  · exact freeze_sessionLegal _
  · exact freeze_sessionLegal _
  all_goals exact hs

theorem sessionClear_sessionLegal (hs : s.SessionLegal) : (sessionClear s).1.SessionLegal := by
  unfold sessionClear
  split
  · exact ⟨nofun, fun _ => rfl⟩
  · exact ⟨nofun, fun _ => rfl⟩
  all_goals exact hs

theorem exec_keeps_sessionLegal (c : Instr) (s t : State) (hs : s.SessionLegal) (h : exec c s = .next t) :
    t.SessionLegal := by
  have hlink : ∀ (x : State) l, x.SessionLegal → ({ x with toolLink := l } : State).SessionLegal := fun _ _ hx => hx
  obtain htouch | hkept := (exec_rangedFrame h).session
  · cases c
    case porst => cases h; exact reset_sessionLegal
    case clearUnit seq =>
      cases h
      exact linkExecute_keeps hlink _ _ _ hs (clearUnit_keeps hs ⟨nofun, fun _ => rfl⟩)
    case startTrigger =>
      obtain rfl | ⟨w, g, _, _, rfl⟩ := exec_startTrigger_cases h
      · exact hs
      · split
        · exact takeStart_sessionLegal hs
        · exact hs
    case recordNotice =>
      obtain rfl | ⟨w, g, _, _, rfl⟩ := exec_recordNotice_cases h
      · exact hs
      · exact sessionLegal_of_eq (State.forwardAndGoOn_session _ w g) (takeNotice_sessionLegal hs)
    case stopTrigger =>
      obtain rfl | ⟨w, g, _, _, rfl⟩ := exec_stopTrigger_cases h
      · exact hs
      · have hstep : (s.afterStop w g).SessionLegal := sessionLegal_of_eq (s.afterStop_session w g) hs
        split
        · exact takeStop_sessionLegal hstep
        · exact hstep
    case sessionArm seq count => cases h; exact linkExecute_keeps hlink _ _ _ hs (sessionArm_sessionLegal count hs)
    case sessionRun seq count => cases h; exact linkExecute_keeps hlink _ _ _ hs (sessionRun_sessionLegal count hs)
    case sessionHalt seq => cases h; exact linkExecute_keeps hlink _ _ _ hs (sessionHalt_sessionLegal hs)
    case sessionClear seq => cases h; exact linkExecute_keeps hlink _ _ _ hs (sessionClear_sessionLegal hs)
    all_goals exact htouch.elim
  · exact sessionLegal_of_eq hkept hs

end Session

/-! ### The queue (R80, R81) -/

section Queue
variable {s t : State}

theorem queueLegal_of_eq (h : t.queue = s.queue) (hs : s.QueueLegal) : t.QueueLegal := by
  rw [State.QueueLegal, h]
  exact hs

/-- The ring state of a configured queue moves within its range. -/
theorem queueLegal_of_ring {oldest occupancy : Nat} (hs : s.QueueLegal) (hc : s.queue.count ≠ 0)
    (ht : t.queue = { s.queue with oldest := oldest, occupancy := occupancy }) (hold : oldest < s.queue.count)
    (hocc : occupancy ≤ s.queue.count) : t.QueueLegal := by
  obtain hnone | ⟨hlow, hhigh, hfit, hmark, hmark', _, _⟩ := hs
  · exact absurd (by rw [hnone]; rfl) hc
  · rw [State.QueueLegal, ht]
    exact .inr ⟨hlow, hhigh, hfit, hmark, hmark', hold, hocc⟩

theorem occupancy_le_count (hs : s.QueueLegal) : s.queue.occupancy ≤ s.queue.count := by
  obtain hnone | ⟨_, _, _, _, _, _, hocc⟩ := hs
  · rw [hnone]
    exact Nat.le_refl 0
  · exact hocc

theorem oldest_lt_count (hs : s.QueueLegal) (hc : s.queue.count ≠ 0) : s.queue.oldest < s.queue.count := by
  obtain hnone | ⟨_, _, _, _, _, hold, _⟩ := hs
  · exact absurd (by rw [hnone]; rfl) hc
  · exact hold

theorem advance_lt_count {q : Queue} (hc : q.count ≠ 0) : q.advance < q.count :=
  Nat.mod_lt _ (Nat.pos_of_ne_zero hc)

theorem offerToQueue_queueLegal (w : Work) (g : Governor) (hs : s.QueueLegal) (hc : s.queue.count ≠ 0) :
    (s.offerToQueue w g).QueueLegal := by
  by_cases hroom : s.queue.occupancy < s.queue.count
  · rw [offerToQueue_of_room hroom]
    refine queueLegal_of_ring hs hc (oldest := s.queue.oldest) (occupancy := s.queue.occupancy + 1) ?_
      (oldest_lt_count hs hc) hroom
    unfold State.enqueue State.linkQueueRecord
    simp only [State.setWork_queue, State.placeLink_queue]
    split <;> rfl
  · have hfull := Nat.not_lt.mp hroom
    cases hmode : s.queue.mode with
    | stopWhenFull =>
      rw [offerToQueue_of_stopWhenFull hfull hmode]
      exact queueLegal_of_eq (by simp [State.dropCapture]) hs
    | ring =>
      rw [offerToQueue_of_ring hfull hmode]
      exact queueLegal_of_ring hs hc (oldest := s.queue.advance) (occupancy := s.queue.occupancy) rfl
        (advance_lt_count hc) (occupancy_le_count hs)

theorem captureToQueue_queueLegal (w : Work) (g : Governor) (hs : s.QueueLegal) :
    (s.captureToQueue w g).QueueLegal := by
  have hforward : (s.forwardAndGoOn w g).QueueLegal := queueLegal_of_eq (s.forwardAndGoOn_queue w g) hs
  unfold State.captureToQueue
  split
  · exact hforward
  · rename_i hgiven
    split
    · exact offerToQueue_queueLegal w g hs fun hc => hgiven (.inr hc)
    · exact hforward

/-- The configuration that passes the checks of CONFIG_QUEUE has its fields in range (R82). -/
theorem queueOf_range {first count mode watermark : Byte} (h : s.queueFailure first count mode watermark = none) :
    2 ≤ count.toNat ∧ count.toNat ≤ 32 ∧ first.toNat + count.toNat ≤ 64 ∧ 1 ≤ watermark.toNat
      ∧ watermark.toNat ≤ count.toNat := by
  unfold State.queueFailure at h
  split at h
  · cases h
  · rename_i hfields
    split at h
    · cases h
    · rename_i hfit
      simp only [queueFieldsInRange, Bool.not_eq_false, Bool.and_eq_true, decide_eq_true_eq] at hfields
      obtain ⟨⟨⟨⟨hlow, hhigh⟩, _⟩, hmark⟩, hmark'⟩ := hfields
      exact ⟨hlow, hhigh, Nat.not_lt.mp hfit, hmark, hmark'⟩

theorem configQueue_queueLegal (first count mode watermark : Byte) (hs : s.QueueLegal) :
    (configQueue first count mode watermark s).1.QueueLegal := by
  unfold configQueue unconfigureQueue configureQueue
  split
  · split
    · split
      · exact hs
      · exact .inl rfl
    · split
      · exact hs
      · rename_i hnone
        obtain ⟨hlow, hhigh, hfit, hmark, hmark'⟩ := queueOf_range hnone
        exact .inr ⟨hlow, hhigh, hfit, hmark, hmark', Nat.lt_of_lt_of_le Nat.two_pos hlow, Nat.zero_le _⟩
  · exact hs

theorem popQueue_queueLegal (hs : s.QueueLegal) : (popQueue s).1.QueueLegal := by
  unfold popQueue
  split
  · exact hs
  · rename_i hc
    split
    · exact hs
    · exact queueLegal_of_ring hs hc (oldest := s.queue.advance) (occupancy := s.queue.occupancy - 1) rfl
        (advance_lt_count hc) ((Nat.sub_le _ _).trans (occupancy_le_count hs))

/-- The ring state emptied, the configuration kept (R93). -/
theorem clearSession_queueLegal (hs : s.QueueLegal) : s.clearSession.QueueLegal := by
  by_cases hc : s.queue.count = 0
  · obtain hnone | ⟨hlow, _⟩ := hs
    · refine .inl ?_
      unfold State.clearSession
      rw [hnone]
      rfl
    · omega
  · exact queueLegal_of_ring hs hc (oldest := 0) (occupancy := 0) rfl (Nat.pos_of_ne_zero hc) (Nat.zero_le _)

theorem sessionClear_queueLegal (hs : s.QueueLegal) : (sessionClear s).1.QueueLegal := by
  unfold sessionClear
  split
  · exact clearSession_queueLegal hs
  · exact clearSession_queueLegal hs
  all_goals exact hs

theorem exec_keeps_queueLegal (c : Instr) (s t : State) (hs : s.QueueLegal) (h : exec c s = .next t) :
    t.QueueLegal := by
  have hlink : ∀ (x : State) l, x.QueueLegal → ({ x with toolLink := l } : State).QueueLegal := fun _ _ hx => hx
  obtain htouch | hkept := (exec_rangedFrame h).queue
  · cases c
    case porst => cases h; exact .inl rfl
    case clearUnit seq => cases h; exact linkExecute_keeps hlink _ _ _ hs (clearUnit_keeps hs (.inl rfl))
    case captureQueueAction =>
      obtain rfl | ⟨w, g, _, _, _, rfl⟩ := exec_captureQueueAction_cases h
      · exact hs
      · split
        · exact captureToQueue_queueLegal w g hs
        · exact queueLegal_of_eq (s.forwardAndGoOn_queue w g) hs
    case configQueue seq first count mode watermark =>
      cases h
      exact linkExecute_keeps hlink _ _ _ hs (configQueue_queueLegal first count mode watermark hs)
    case popQueue seq => cases h; exact linkExecute_keeps hlink _ _ _ hs (popQueue_queueLegal hs)
    case sessionClear seq => cases h; exact linkExecute_keeps hlink _ _ _ hs (sessionClear_queueLegal hs)
    all_goals exact htouch.elim
  · exact queueLegal_of_eq hkept hs

end Queue

/-! ### The records (R42, R129) -/

section Records
variable {s t : State}

theorem porst_inLine : Slot.porst.InLine := ⟨by decide, by decide, by decide⟩

theorem takeSlot_inLine (n m : SlotId) (h : (s.slot m).InLine) : ((takeSlot n s).1.slot m).InLine := by
  rcases takeSlot_slot n s m with e | ⟨_, _, e⟩ <;> rw [e] <;> exact h

theorem writeSlot_inLine (offset length : Byte) (data : Line) (n m : SlotId) (h : (s.slot m).InLine) :
    ((writeSlot offset length data n s).1.slot m).InLine := by
  rcases writeSlot_slot offset length data n s m with e | ⟨_, _, _, e⟩ <;> rw [e] <;> exact h

theorem releaseSlot_inLine (n m : SlotId) (h : (s.slot m).InLine) : ((releaseSlot n s).1.slot m).InLine := by
  obtain ⟨_, _, hbeats, hfirst, haddress⟩ := releaseSlot_slot n s m
  rw [Slot.InLine, hbeats, hfirst, haddress]
  exact h

/-- A record made is that of an acceptable request, and no other change moves a record in its line (R47). -/
theorem exec_keeps_inLine {c : Instr} (hs : s.RecordsLegal) (h : exec c s = .next t) (n : SlotId) :
    (t.slot n).InLine := by
  obtain ⟨hslots, hwork⟩ := hs
  have hn : (s.slot n).InLine := hslots n
  have hrest : KeepsOwners c → (t.slot n).InLine := fun hc =>
    inLine_of_slotStep hwork (exec_slotsStep c s t hc h n) hn
  cases c
  case porst =>
    cases h
    show (State.reset.slot n).InLine
    rw [reset_slot]
    exact porst_inLine
  case clearUnit seq =>
    cases h
    refine linkExecute_slot _ _ _ s n Slot.InLine hn (clearUnit_keeps (inv := fun x => (x.slot n).InLine) hn ?_)
    show (State.reset.slot n).InLine
    rw [reset_slot]
    exact porst_inLine
  case takeSlot seq slot =>
    cases h
    exact linkExecute_slot _ _ _ s n _ hn (withSlot_slot _ _ s n _ hn fun m _ => takeSlot_inLine m n hn)
  case releaseSlot seq slot =>
    cases h
    exact linkExecute_slot _ _ _ s n _ hn (withSlot_slot _ _ s n _ hn fun m _ => releaseSlot_inLine m n hn)
  case writeSlot seq slot offset length data =>
    cases h
    exact linkExecute_slot _ _ _ s n _ hn
      (withSlot_slot _ _ s n _ hn fun m _ => writeSlot_inLine offset length data m n hn)
  all_goals exact hrest trivial

theorem exec_keeps_recordsLegal (c : Instr) (s t : State) (hs : s.RecordsLegal) (h : exec c s = .next t) :
    t.RecordsLegal := by
  have ⟨_, hwork⟩ := hs
  exact ⟨exec_keeps_inLine hs h, acceptable_of_workStep (exec_workStep c s t h) hwork⟩

end Records

/-- Settles O53: each range goes command by command, and a step is one command. -/
theorem everyStepKeepsTheRanges : Obligations.EveryStepKeepsTheRanges :=
  ⟨keptByEveryStep_of_exec (fun _ _ hs => hs) exec_keeps_historyBounded,
    keptByEveryStep_of_exec (fun _ _ hs => hs) exec_keeps_timeBaseLegal,
    keptByEveryStep_of_exec (fun _ _ hs => hs) exec_keeps_sessionLegal,
    keptByEveryStep_of_exec (fun _ _ hs => hs) exec_keeps_queueLegal,
    keptByEveryStep_of_exec (fun _ _ hs => hs) exec_keeps_recordsLegal⟩

/-! ### The data area of a TOOL-owned slot (R46) -/

/-- In `x` a slot that is TOOL-owned has the data area it has in `s`. -/
def SameToolData (s x : State) (n : SlotId) : Prop := (x.slot n).owner = .tool → (x.slot n).data = (s.slot n).data

section ToolData
variable {s : State} {n : SlotId}

theorem sameToolData_of_unit {x : State} (h : (x.slot n).owner = .unit) : SameToolData s x n := fun ht => by
  rw [h] at ht
  cases ht

theorem takeSlot_sameToolData (m : SlotId) : SameToolData s (takeSlot m s).1 n := fun _ => by
  rcases takeSlot_slot m s n with e | ⟨_, _, e⟩ <;> rw [e]

/-- The slot released is UNIT-owned after, and the others are as they were (R53). -/
theorem releaseSlot_sameToolData (m : SlotId) : SameToolData s (releaseSlot m s).1 n := by
  obtain ⟨howner, hother, _⟩ := releaseSlot_slot m s n
  by_cases hnm : n = m
  · exact sameToolData_of_unit (by rw [howner, if_pos hnm])
  · exact fun _ => by rw [hother hnm]

theorem writeSlot_sameToolData (offset length : Byte) (data : Line) {m : SlotId} (hnm : n ≠ m) :
    SameToolData s (writeSlot offset length data m s).1 n := fun _ => by
  obtain e | ⟨hnm', _⟩ := writeSlot_slot offset length data m s n
  · rw [e]
  · exact absurd hnm' hnm

/-- Every command but WRITE_SLOT of that slot leaves the data area of a slot that is TOOL-owned and stays so. -/
theorem exec_sameToolData {c : Instr} {t : State} (h : exec c s = .next t) (ho : (s.slot n).owner = .tool)
    (hc : ∀ seq slot offset length data, c = .writeSlot seq slot offset length data → slot.toNat ≠ n.val) :
    SameToolData s t n := by
  have hlink : ∀ (x : State) l, SameToolData s x n → SameToolData s { x with toolLink := l } n := fun _ _ hx => hx
  have hs : SameToolData s s n := fun _ => rfl
  have hreset : (State.reset.slot n).owner = .unit := by rw [reset_slot]; rfl
  have hrest : KeepsOwners c → SameToolData s t n := fun hk _ => (exec_slotsStep c s t hk h n).data ho
  cases c
  case porst => cases h; exact sameToolData_of_unit hreset
  case clearUnit seq =>
    cases h
    exact linkExecute_keeps hlink _ _ _ hs
      (clearUnit_keeps (inv := fun x => SameToolData s x n) hs (sameToolData_of_unit hreset))
  case takeSlot seq slot =>
    cases h
    exact linkExecute_keeps hlink _ _ _ hs
      (withSlot_keeps (inv := fun x => SameToolData s x n) _ _ hs takeSlot_sameToolData)
  case releaseSlot seq slot =>
    cases h
    exact linkExecute_keeps hlink _ _ _ hs
      (withSlot_keeps (inv := fun x => SameToolData s x n) _ _ hs releaseSlot_sameToolData)
  case writeSlot seq slot offset length data =>
    cases h
    refine linkExecute_keeps hlink _ _ _ hs ?_
    rcases withSlot_cases slot (writeSlot offset length data) s with e | ⟨m, hm, e⟩ <;> rw [e]
    · exact hs
    · refine writeSlot_sameToolData offset length data fun hnm => hc _ _ _ _ _ rfl ?_
      rw [hm, hnm]
  all_goals exact hrest trivial

end ToolData

/-- Settles O58: a command that is not WRITE_SLOT of the slot leaves its data area. -/
theorem onlyTheToolWritesAToolOwnedSlot : Obligations.OnlyTheToolWritesAToolOwnedSlot := by
  intro c s t n h ho ht
  by_cases hc : ∃ seq slot offset length data, c = .writeSlot seq slot offset length data ∧ slot.toNat = n.val
  · exact .inr hc
  · exact .inl (exec_sameToolData h ho
      (fun seq slot offset length data hw hn => hc ⟨seq, slot, offset, length, data, hw, hn⟩) ht)

end Sys2Proof.Machine
end

section
/-! PROOFS. The slot commands, and the accesses to a record (O18, O19, O22, O23). -/

namespace Sys2Proof.Machine

/-! ### The frame of a slot command (R51) -/

section Frames
variable {s t : State} {code seq slot : Byte} {a : Answer} (run : SlotId → State → State × Answer)

/-- A slot command whose number names no slot is refused with SLOT_RANGE (R51). -/
theorem slotCommand_of_ge (hx : s.Executes code seq) (hn : slot.toNat ≥ 64) :
    (.next (linkExecute code seq (withSlot slot run) s) : Host.Outcome State Fault Refusal)
      = .next (s.store code seq (badArg .slotRange)) := by
  rw [linkExecute_of_executes hx, withSlot_of_ge hn]

/-- A slot command whose number names a slot runs on it, and its answer is stored (R51, R151). -/
theorem slotCommand_of_eq {n : SlotId} (hx : s.Executes code seq) (hn : slot.toNat = n.val) (hr : run n s = (t, a)) :
    (.next (linkExecute code seq (withSlot slot run) s) : Host.Outcome State Fault Refusal)
      = .next (t.store code seq a) := by
  rw [linkExecute_of_executes hx, withSlot_of_eq hn, hr]

end Frames

/-! ### TAKE_SLOT and RELEASE_SLOT (R52, R53, R104) -/

section Owners
variable {s : State} {n : SlotId} {w : Work} {g : Governor}

theorem takeSlot_of_queue (h : s.role n = .queue) : takeSlot n s = (s, answer .badState) := if_pos h

theorem takeSlot_of_not_queue (h : s.role n ≠ .queue) :
    takeSlot n s = (s.setSlot n { s.slot n with owner := .tool }, answer .ok) := if_neg h

theorem releaseSlot_of_unit (h : (s.slot n).owner = .unit) : releaseSlot n s = (s, answer .ok) := by
  rw [releaseSlot, h]

/-- The release of a slot on which no request is stalled changes the owner alone. -/
theorem releaseSlot_of_not_stalled (h : (s.slot n).owner = .tool)
    (hs : ∀ w g stalled timer, s.stall = some (w, g, stalled, timer) → stalled ≠ n) :
    releaseSlot n s = (s.setSlot n { s.slot n with owner := .unit }, answer .ok) := by
  rw [releaseSlot, h]
  simp only
  split
  · rfl
  · exact if_neg (hs _ _ _ _ ‹_›)

/-- The release of the slot on which a request is stalled is a service of that request (R54, R104). -/
theorem releaseSlot_of_stalled {timer : LimitTimer} (h : (s.slot n).owner = .tool)
    (hs : s.stall = some (w, g, n, timer)) :
    releaseSlot n s = ((s.setSlot n { s.slot n with owner := .unit }).serveStalled w g n timer, answer .ok) := by
  rw [releaseSlot, h]
  simp only [hs, if_true]

theorem serveStalled_of_due : s.serveStalled w g n .expiryDue = s.expireStall w g := if_pos rfl

theorem serveStalled_of_not_due {timer : LimitTimer} (h : timer ≠ .expiryDue) :
    s.serveStalled w g n timer = (s.serve w n).afterAction w g := if_neg h

/-- The expiry of the stall limit and a change of a slot leave each other as they are. -/
theorem expireStall_setSlot (s : State) (n : SlotId) (sl : Slot) (w : Work) (g : Governor) :
    (s.setSlot n sl).expireStall w g = (s.expireStall w g).setSlot n sl := by
  rw [State.expireStall, State.expireStall, afterAction_eq, afterAction_eq]
  rfl

end Owners

/-- Settles O18: by the role, then by the owner, and for a release by the stall that it meets. -/
theorem takeAndReleaseSlotChangeTheOwner : Obligations.TakeAndReleaseSlotChangeTheOwner := by
  refine ⟨fun s seq slot hx => ⟨slotCommand_of_ge _ hx, fun n hn => ⟨fun hrole => ?_, fun hrole => ?_⟩⟩,
    fun s seq slot hx => ⟨slotCommand_of_ge _ hx, fun n hn => ⟨fun ho => ?_, fun ho => ⟨fun hs => ?_,
      fun w g timer hs ht => ?_, fun w g t hs ht => ?_⟩⟩⟩⟩
  · exact slotCommand_of_eq _ hx hn (takeSlot_of_queue hrole)
  · exact slotCommand_of_eq _ hx hn (takeSlot_of_not_queue hrole)
  · exact slotCommand_of_eq _ hx hn (releaseSlot_of_unit ho)
  · exact slotCommand_of_eq _ hx hn (releaseSlot_of_not_stalled ho hs)
  · refine slotCommand_of_eq _ hx hn ((releaseSlot_of_stalled ho hs).trans ?_)
    rw [serveStalled_of_not_due ht]
  · have hexpired : s.expireStall w g = t := (s.settleStall_of_due hs).symm.trans (Host.Outcome.next.inj ht)
    have hslot : t.slot n = s.slot n := by rw [← hexpired, State.expireStall_slot]
    refine slotCommand_of_eq _ hx hn ((releaseSlot_of_stalled ho hs).trans ?_)
    rw [serveStalled_of_due, expireStall_setSlot, hexpired, hslot]

/-! ### WRITE_SLOT (R55) -/

section WriteSlot
variable {s : State} {n : SlotId} {offset length : Byte} (data : Line)

theorem extentValid_iff (offset length : Byte) :
    extentValid offset length = true ↔ 1 ≤ length.toNat ∧ offset.toNat + length.toNat ≤ 64 := by
  simp only [extentValid, Bool.and_eq_true, decide_eq_true_eq]
  omega

theorem writeSlot_of_extent (h : length.toNat = 0 ∨ offset.toNat + length.toNat > 64) :
    writeSlot offset length data n s = (s, badArg .extent) := by
  refine if_pos (Bool.eq_false_iff.mpr fun hvalid => ?_)
  rw [extentValid_iff] at hvalid
  omega

theorem writeSlot_of_unit (he : extentValid offset length = true) (h : (s.slot n).owner = .unit) :
    writeSlot offset length data n s = (s, answer .notOwner) := by
  simp only [writeSlot, he, Bool.true_eq_false, if_false, h]

theorem writeSlot_of_tool (he : extentValid offset length = true) (h : (s.slot n).owner = .tool) :
    writeSlot offset length data n s = (s.setSlot n { s.slot n with
      data := mergeLine (s.slot n).data (extentByte offset.toNat length.toNat data) }, answer .ok) := by
  simp only [writeSlot, he, Bool.true_eq_false, if_false, h]

theorem extentByte_of_mem {offset length i : Nat} (h : offset ≤ i ∧ i < offset + length) (hi : i - offset < 64) :
    extentByte offset length data i = some data[i - offset] := by
  rw [extentByte, if_pos h, lineByte_of_lt data hi]

theorem extentByte_of_not_mem {offset length i : Nat} (h : ¬ (offset ≤ i ∧ i < offset + length)) :
    extentByte offset length data i = none := if_neg h

end WriteSlot

/-- Settles O19: by the three checks in their order, and then byte by byte. -/
theorem writeSlotWritesItsExtent : Obligations.WriteSlotWritesItsExtent := by
  intro s seq slot offset length data hx
  refine ⟨slotCommand_of_ge _ hx, fun n hn => ⟨fun h => ?_, fun hlow hhigh => ?_⟩⟩
  · exact slotCommand_of_eq _ hx hn (writeSlot_of_extent data h)
  · have hvalid := (extentValid_iff offset length).mpr ⟨hlow, hhigh⟩
    refine ⟨fun ho => slotCommand_of_eq _ hx hn (writeSlot_of_unit data hvalid ho), fun ho =>
      ⟨_, slotCommand_of_eq _ hx hn (writeSlot_of_tool data hvalid ho), fun i => ?_⟩⟩
    rw [getElem_mergeLine]
    split
    · rename_i hmem
      rw [extentByte_of_mem data hmem (by omega)]
      rfl
    · rename_i hmem
      rw [extentByte_of_not_mem data hmem]
      rfl

/-! ### Record creation (R47, R61 to R63) -/

theorem lineAddress_eq (r : Request) : lineAddress r = (r.address >>> 6) <<< 6 := by
  have hmask : ∀ k, k < 40 → (0xFFFFFFFFC0#40).getLsbD k = decide (6 ≤ k) := by decide
  apply BitVec.eq_of_getLsbD_eq
  intro i hi
  simp only [lineAddress, BitVec.getLsbD_and, hmask i hi, BitVec.getLsbD_shiftLeft, BitVec.getLsbD_ushiftRight, hi]
  by_cases h : 6 ≤ i
  · simp [h, Nat.not_lt.mpr h]
  · simp [h, Nat.lt_of_not_le h]

section Record
variable {s : State} {r : Request} {capture : Bool} {old : Slot} (i : Fin 64)

theorem getElem_recordEnables_of_read (h : r.kind = .read) :
    (recordEnables r)[i] = inBeats (firstBeat r).toNat r.beats i.val := by
  simp [recordEnables, h]

theorem getElem_recordEnables_of_write (h : r.kind = .write) : (recordEnables r)[i] = (writeByte r i.val).isSome := by
  simp [recordEnables, h]

theorem getElem_newRecord_data_of_read (h : r.kind = .read) : (newRecord s r capture old).data[i] = 0 := by
  simp [newRecord, h]

theorem getElem_newRecord_data_of_write (h : r.kind = .write) :
    (newRecord s r capture old).data[i] = (writeByte r i.val).getD 0 := by
  have hzero : (Vector.replicate 64 (0 : Byte))[i] = 0 := by simp
  simp only [newRecord, h]
  rw [getElem_mergeLine, hzero]

/-- A record has nothing outside the beats of its request (R61, R62). -/
theorem newRecord_outside (h : ¬ ((firstBeat r).toNat ≤ i.val / 8 ∧ i.val / 8 < (firstBeat r).toNat + r.beats)) :
    (recordEnables r)[i] = false ∧ (newRecord s r capture old).data[i] = 0 := by
  cases hk : r.kind with
  | read =>
    refine ⟨?_, getElem_newRecord_data_of_read i hk⟩
    rw [getElem_recordEnables_of_read i hk, Bool.eq_false_iff, ne_eq, inBeats_iff]
    exact h
  | write =>
    have hnone : writeByte r i.val = none := writeByte_of_not_enabled fun _ hfirst hlast => absurd ⟨hfirst, hlast⟩ h
    rw [getElem_recordEnables_of_write i hk, getElem_newRecord_data_of_write i hk, hnone]
    exact ⟨rfl, rfl⟩

/-- A read's record has every requested byte enabled, and no data yet (R62). -/
theorem newRecord_read (hk : r.kind = .read) (hfirst : (firstBeat r).toNat ≤ i.val / 8)
    (hlast : i.val / 8 < (firstBeat r).toNat + r.beats) :
    (recordEnables r)[i] = true ∧ (newRecord s r capture old).data[i] = 0 := by
  refine ⟨?_, getElem_newRecord_data_of_read i hk⟩
  rw [getElem_recordEnables_of_read i hk, inBeats_iff]
  exact ⟨hfirst, hlast⟩

/-- A write's record has the request's byte enables, and the enabled bytes (R61). -/
theorem newRecord_write {beat : WriteBeat} (hk : r.kind = .write) (hfirst : (firstBeat r).toNat ≤ i.val / 8)
    (hlast : i.val / 8 < (firstBeat r).toNat + r.beats)
    (hbeat : r.write[i.val / 8 - (firstBeat r).toNat]? = some beat) :
    (recordEnables r)[i] = beat.enables.getLsbD (i.val % 8)
      ∧ (newRecord s r capture old).data[i]
        = if beat.enables.getLsbD (i.val % 8) then beat.data.extractLsb' (8 * (i.val % 8)) 8 else 0 := by
  rw [getElem_recordEnables_of_write i hk, getElem_newRecord_data_of_write i hk]
  cases hen : beat.enables.getLsbD (i.val % 8) with
  | true =>
    rw [writeByte_of_enabled hfirst hlast hbeat hen]
    exact ⟨rfl, rfl⟩
  | false =>
    have hnone : writeByte r i.val = none := writeByte_of_not_enabled fun other _ _ hother => by
      cases hother.symm.trans hbeat
      exact hen
    rw [hnone]
    exact ⟨rfl, rfl⟩

end Record

theorem createRecord_eq (s : State) (n : SlotId) (r : Request) (capture : Bool) :
    s.createRecord n r capture
      = if capture = true ∧ (s.slot n).new = true
        then State.raise .overrun
          { s.setSlot n (newRecord s r capture (s.slot n)) with captureSeq := s.captureSeq + 1 }
        else { s.setSlot n (newRecord s r capture (s.slot n)) with captureSeq := s.captureSeq + 1 } := by
  simp only [State.createRecord, Bool.and_eq_true]

/-- Settles O22: the slot made is `newRecord`, and its bytes go by the beats of the request. -/
theorem recordCreationReplacesTheSlotWhole : Obligations.RecordCreationReplacesTheSlotWhole := by
  intro s n r capture _
  exact ⟨newRecord s r capture (s.slot n), createRecord_eq s n r capture, rfl, rfl, rfl, rfl, rfl, lineAddress_eq r, rfl,
    rfl, rfl, rfl, rfl, rfl, newRecord_outside, fun i hfirst hlast => ⟨fun hk => newRecord_read i hk hfirst hlast,
      fun _ hk hbeat => newRecord_write i hk hfirst hlast hbeat⟩⟩

/-! ### The closing accesses (R49, R66 to R70) -/

/-- The byte of a read fill, by the beats of the record (R66). -/
theorem getElem_fill (sl : Slot) (beats : List Beat) (i : Fin 64) :
    (mergeLine sl.data (fillByte sl.firstBeat.toNat sl.beats beats))[i]
      = if sl.firstBeat.toNat ≤ i.val / 8 ∧ i.val / 8 < sl.firstBeat.toNat + sl.beats
        then (beats.getD (i.val / 8 - sl.firstBeat.toNat) 0).extractLsb' (8 * (i.val % 8)) 8 else sl.data[i] := by
  rw [getElem_mergeLine, fillByte]
  simp only [inBeats_iff]
  split <;> rfl

/-- Settles O23: by the four-way check, and then by what a response makes of the record. -/
theorem closingAccessesMakeTheFourWayCheck : Obligations.ClosingAccessesMakeTheFourWayCheck := by
  intro s l change
  refine ⟨fun h => if_pos ((closable_iff _ _).mpr h), fun h => if_neg (mt (closable_iff _ _).mp h), rfl, rfl,
    fun sl beats => ⟨fun kind => ?_, rfl, _, rfl, getElem_fill sl beats⟩⟩
  cases kind <;> rfl

end Sys2Proof.Machine
end

section
/-! PROOFS. READ_SLOT: the snapshot byte by byte, and the role it shows (O20). -/

namespace Sys2Proof.Machine

/-! ### Bytes and bits -/

theorem getElem_payloadOf (bytes : List Byte) {k : Nat} (h : k < 88) : (payloadOf bytes)[k] = bytes.getD k 0 := by
  simp [payloadOf]

/-- The bits of a byte built from its bits. -/
theorem getLsbD_byteOfBits (f : Nat → Bool) (i : Fin 8) :
    (byteOfBits (f 7) (f 6) (f 5) (f 4) (f 3) (f 2) (f 1) (f 0)).getLsbD i.val = f i.val := by
  have hbits : ∀ (b7 b6 b5 b4 b3 b2 b1 b0 : Bool) (k : Fin 8), (byteOfBits b7 b6 b5 b4 b3 b2 b1 b0).getLsbD k.val
      = [b0, b1, b2, b3, b4, b5, b6, b7][k.val] := by decide
  rw [hbits]
  fin_cases i <;> rfl

/-- An address is its five bytes (1.6). -/
theorem byteAt_append_five (x : BitVec 40) :
    byteAt x 4 ++ byteAt x 3 ++ byteAt x 2 ++ byteAt x 1 ++ byteAt x 0 = x := by
  apply BitVec.eq_of_getLsbD_eq
  intro i hi
  simp only [byteAt, BitVec.getLsbD_append, BitVec.getLsbD_extractLsb']
  interval_cases i <;> simp

theorem getLsbD_enableByte (e : Vector Bool 64) (j i : Fin 8) :
    (enableByte e j.val).getLsbD i.val = e[8 * j.val + i.val] := by
  rw [enableByte, getLsbD_byteOfBits fun i => e.toList.getD (8 * j.val + i) false]
  have h : 8 * j.val + i.val < 64 := by omega
  simp [List.getD, h]

/-! ### The snapshot (11.7, R179) -/

/-- Byte 1 of the snapshot: owner, record state, new, overrun and kind, with bits 5 to 7 zero. -/
def flagsByte (sl : Slot) : Byte :=
  byteOfBits false false false (isWrite sl.kind) sl.overrun sl.new sl.record.isHeld sl.owner.isTool

/-- Byte 2 of the snapshot: the role in bits 0 and 1, the outcome in bits 4 and 5. -/
def roleByte (role : Role) (outcome : RecordOutcome) : Byte := BitVec.ofNat 8 (role.code + 16 * outcome.code)

/-- The bytes of the snapshot before the byte enables. -/
def descriptorBytes (number : SlotId) (role : Role) (sl : Slot) : List Byte :=
  [BitVec.ofNat 8 number.val, flagsByte sl, roleByte role sl.outcome, BitVec.ofNat 8 sl.source.val,
    BitVec.ofNat 8 (sl.firstBeat.toNat + 8 * (sl.beats - 1)),
    byteAt sl.sequence 0, byteAt sl.sequence 1,
    byteAt sl.timeStamp 0, byteAt sl.timeStamp 1, byteAt sl.timeStamp 2, byteAt sl.timeStamp 3,
    byteAt sl.lineAddress 0, byteAt sl.lineAddress 1, byteAt sl.lineAddress 2, byteAt sl.lineAddress 3,
    byteAt sl.lineAddress 4]

theorem snapshotBytes_eq (number : SlotId) (role : Role) (sl : Slot) :
    snapshotBytes number role sl
      = descriptorBytes number role sl ++ ((List.range 8).map (enableByte sl.enables) ++ sl.data.toList) := by
  rw [snapshotBytes, List.append_assoc _ (List.map _ _)]
  rfl

section Snapshot
variable (number : SlotId) (role : Role) (sl : Slot)

/-- The payload of READ_SLOT. -/
def snapshotPayload : Payload := payloadOf (snapshotBytes number role sl)

theorem getElem_snapshot_descriptor {k : Nat} (h : k < 16) :
    (snapshotPayload number role sl)[k] = (descriptorBytes number role sl)[k] := by
  rw [snapshotPayload, getElem_payloadOf, snapshotBytes_eq, List.getD_append _ _ _ _ h]
  exact List.getD_eq_getElem _ _ h

theorem getElem_snapshot_enables (j : Fin 8) :
    (snapshotPayload number role sl)[16 + j.val] = enableByte sl.enables j.val := by
  rw [snapshotPayload, getElem_payloadOf, snapshotBytes_eq, List.getD_append_right _ _ _ _ (Nat.le_add_right 16 _),
    List.getD_append] <;> simp [descriptorBytes]

theorem getElem_snapshot_data (i : Fin 64) : (snapshotPayload number role sl)[24 + i.val] = sl.data[i] := by
  rw [snapshotPayload, getElem_payloadOf, snapshotBytes_eq, ← List.append_assoc, List.getD_append_right] <;>
    simp [descriptorBytes]

theorem snapshot_number {slot : Byte} (h : slot.toNat = number.val) : (snapshotPayload number role sl)[0] = slot := by
  rw [getElem_snapshot_descriptor _ _ _ (k := 0) (by decide)]
  show BitVec.ofNat 8 number.val = slot
  rw [← h, BitVec.ofNat_toNat, BitVec.setWidth_eq]

theorem snapshot_flags : (snapshotPayload number role sl)[1] = flagsByte sl :=
  getElem_snapshot_descriptor _ _ _ (k := 1) (by decide)

theorem snapshot_role : (snapshotPayload number role sl)[2] = roleByte role sl.outcome :=
  getElem_snapshot_descriptor _ _ _ (k := 2) (by decide)

theorem snapshot_source : (snapshotPayload number role sl)[3].toNat = sl.source.val := by
  rw [getElem_snapshot_descriptor _ _ _ (k := 3) (by decide)]
  show (BitVec.ofNat 8 sl.source.val).toNat = sl.source.val
  rw [BitVec.toNat_ofNat]
  omega

/-- First beat and beats of a record of 1 to 8 beats fit their byte. -/
theorem snapshot_beats (hlow : 1 ≤ sl.beats) (hhigh : sl.beats ≤ 8) :
    (snapshotPayload number role sl)[4].toNat = sl.firstBeat.toNat + 8 * (sl.beats - 1) := by
  rw [getElem_snapshot_descriptor _ _ _ (k := 4) (by decide)]
  show (BitVec.ofNat 8 (sl.firstBeat.toNat + 8 * (sl.beats - 1))).toNat = _
  rw [BitVec.toNat_ofNat]
  omega

theorem snapshot_sequence :
    (snapshotPayload number role sl)[6] ++ (snapshotPayload number role sl)[5] = sl.sequence := by
  rw [getElem_snapshot_descriptor _ _ _ (k := 6) (by decide), getElem_snapshot_descriptor _ _ _ (k := 5) (by decide)]
  exact byteAt_append_two _

theorem snapshot_timeStamp :
    (snapshotPayload number role sl)[10] ++ (snapshotPayload number role sl)[9] ++ (snapshotPayload number role sl)[8]
      ++ (snapshotPayload number role sl)[7] = sl.timeStamp := by
  have hbyte (k : Nat) (hk : k < 16) := getElem_snapshot_descriptor number role sl hk
  rw [hbyte 10 (by decide), hbyte 9 (by decide), hbyte 8 (by decide), hbyte 7 (by decide)]
  exact byteAt_append_four _

theorem snapshot_lineAddress :
    (snapshotPayload number role sl)[15] ++ (snapshotPayload number role sl)[14]
      ++ (snapshotPayload number role sl)[13] ++ (snapshotPayload number role sl)[12]
      ++ (snapshotPayload number role sl)[11] = sl.lineAddress := by
  have hbyte (k : Nat) (hk : k < 16) := getElem_snapshot_descriptor number role sl hk
  rw [hbyte 15 (by decide), hbyte 14 (by decide), hbyte 13 (by decide), hbyte 12 (by decide), hbyte 11 (by decide)]
  exact byteAt_append_five _

theorem flagsByte_bits :
    (flagsByte sl).getLsbD 0 = decide (sl.owner = .tool) ∧ (flagsByte sl).getLsbD 1 = decide (sl.record = .held)
      ∧ (flagsByte sl).getLsbD 2 = sl.new ∧ (flagsByte sl).getLsbD 3 = sl.overrun
      ∧ (flagsByte sl).getLsbD 4 = decide (sl.kind = .write) ∧ (flagsByte sl).extractLsb' 5 3 = 0 := by
  have hbits : ∀ kind overrun new held tool : Bool,
      (byteOfBits false false false kind overrun new held tool).getLsbD 0 = tool
        ∧ (byteOfBits false false false kind overrun new held tool).getLsbD 1 = held
        ∧ (byteOfBits false false false kind overrun new held tool).getLsbD 2 = new
        ∧ (byteOfBits false false false kind overrun new held tool).getLsbD 3 = overrun
        ∧ (byteOfBits false false false kind overrun new held tool).getLsbD 4 = kind
        ∧ (byteOfBits false false false kind overrun new held tool).extractLsb' 5 3 = 0 := by decide
  have howner : decide (sl.owner = .tool) = sl.owner.isTool := by cases sl.owner <;> rfl
  have hrecord : decide (sl.record = .held) = sl.record.isHeld := by cases sl.record <;> rfl
  have hkind : decide (sl.kind = .write) = isWrite sl.kind := by cases sl.kind <;> rfl
  rw [howner, hrecord, hkind]
  exact hbits _ _ _ _ _

theorem roleByte_fields (outcome : RecordOutcome) :
    (roleByte role outcome).extractLsb' 0 2 = BitVec.ofNat 2 role.code
      ∧ (roleByte role outcome).extractLsb' 4 2 = BitVec.ofNat 2 outcome.code
      ∧ (roleByte role outcome).extractLsb' 2 2 = 0 ∧ (roleByte role outcome).extractLsb' 6 2 = 0 := by
  cases role <;> cases outcome <;> decide

end Snapshot

/-! ### The role (R44) -/

/-- A slot is named by an ON entry with this action byte (R16). -/
def State.NamedUnder (s : State) (n : SlotId) (action : Byte) : Prop :=
  ∃ i : Fin 32, (s.matchEntry i).state = .on ∧ (s.matchEntry i).image.action = action
    ∧ n.val ∈ namedSlots (s.matchEntry i).image

section Role
variable {s : State} {n : SlotId}

theorem any_acts_iff {action : Action} {code : Byte} (hcode : ∀ b : Byte, actionOf b = some action ↔ b = code) :
    s.table.toList.any (fun e => e.acts action && e.names n.val) = true ↔ s.NamedUnder n code := by
  simp only [any_table, Bool.and_eq_true, MatchEntry.acts, beq_iff_eq, hcode, names_iff]
  exact exists_congr fun i => ⟨fun ⟨⟨_, ha⟩, hon, hn⟩ => ⟨hon, ha, hn⟩, fun ⟨hon, ha, hn⟩ => ⟨⟨hon, ha⟩, hon, hn⟩⟩

theorem role_of_queue (hq : s.queue.inRun n.val = true) : s.role n = .queue := if_pos hq

theorem role_of_capture (hq : ¬ s.queue.inRun n.val = true) (hc : s.NamedUnder n 1#8) : s.role n = .capture := by
  rw [State.role, if_neg hq, if_pos ((any_acts_iff actionOf_eq_captureSlot).mpr hc)]

theorem role_of_overlay (hq : ¬ s.queue.inRun n.val = true) (hc : ¬ s.NamedUnder n 1#8) (ho : s.NamedUnder n 3#8) :
    s.role n = .overlay := by
  rw [State.role, if_neg hq, if_neg (mt (any_acts_iff actionOf_eq_captureSlot).mp hc),
    if_pos ((any_acts_iff actionOf_eq_overlay).mpr ho)]

theorem role_of_none (hq : ¬ s.queue.inRun n.val = true) (hc : ¬ s.NamedUnder n 1#8) (ho : ¬ s.NamedUnder n 3#8) :
    s.role n = .unbound := by
  rw [State.role, if_neg hq, if_neg (mt (any_acts_iff actionOf_eq_captureSlot).mp hc),
    if_neg (mt (any_acts_iff actionOf_eq_overlay).mp ho)]

/-! ### The roles of checked entries do not meet -/

theorem slotConflict_of_checked (hs : s.EntriesChecked) {i : Fin 32} (hon : (s.matchEntry i).state = .on) :
    ¬ s.slotConflict i (s.matchEntry i).image = true :=
  Bool.eq_false_iff.mp (slotConflict_of_enableFailure (hs i hon))

theorem not_inRun_of_named (hs : s.EntriesChecked) {action : Byte} (h : s.NamedUnder n action) :
    ¬ s.queue.inRun n.val = true := by
  obtain ⟨i, hon, _, hn⟩ := h
  intro hq
  exact slotConflict_of_checked hs hon ((slotConflict_iff _ _ _).mpr (.inr (.inl ⟨n.val, hn, (inRun_iff _ _).mp hq⟩)))

/-- One entry has one action, and two entries name no slot both. -/
theorem not_overlay_of_capture (hs : s.EntriesChecked) (hc : s.NamedUnder n 1#8) : ¬ s.NamedUnder n 3#8 := by
  obtain ⟨i, hon, ha, hn⟩ := hc
  rintro ⟨j, hon', ha', hn'⟩
  by_cases hij : j = i
  · rw [hij, ha] at ha'
    exact absurd ha' (by decide)
  · exact absurd ((slotConflict_iff _ _ _).mpr (.inl ⟨n.val, hn, j, hij, hon', hn'⟩)) (slotConflict_of_checked hs hon)

/-- A checked OVERLAY entry has one of the five run lengths (R12). -/
theorem runLength_of_checked (hs : s.EntriesChecked) {i : Fin 32} (hon : (s.matchEntry i).state = .on)
    (ha : (s.matchEntry i).image.action = 3#8) : (s.matchEntry i).image.runLength.toNat ≤ 4 := by
  have hfields : fieldsInRange (s.matchEntry i).image = true := by
    by_contra hnot
    rw [Bool.not_eq_true] at hnot
    have h := hs i hon
    simp only [State.enableFailure, hnot, if_true] at h
    split at h <;> cases h
  obtain ⟨_, _, _, _, _, hover⟩ := (fieldsInRange_iff _).mp hfields
  obtain ⟨_, hrun, _⟩ := hover ha
  exact hrun

theorem namedUnder_captureSlot_iff {slot : Byte} (hn : slot.toNat = n.val) :
    s.NamedUnder n 1#8 ↔ ∃ i : Fin 32, (s.matchEntry i).state = .on ∧ (s.matchEntry i).image.action = 1#8
      ∧ (s.matchEntry i).image.captureSlot = slot := by
  refine exists_congr fun i => and_congr_right fun _ => and_congr_right fun ha => ?_
  rw [namedSlots_of_captureSlot ha, List.mem_singleton, ← hn, BitVec.toNat_inj, eq_comm]

/-- The slots of run A and of a present run B, by the first slot of the run (R16, R178). -/
theorem mem_overlaySlots_iff_run {m : EntryImage} (hr : m.runLength.toNat ≤ 4) (k : Nat) :
    k ∈ overlaySlots m ↔ ∃ run : Byte, (run = m.runA ∨ (m.runB ≠ 0 ∧ run.toNat + 1 = m.runB.toNat))
      ∧ run.toNat ≤ k ∧ k < run.toNat + 2 ^ m.runLength.toNat := by
  rw [mem_overlaySlots, linesOf_eq_pow _ hr]
  constructor
  · rintro (⟨hlow, hhigh⟩ | ⟨hb, hlow, hhigh⟩)
    · exact ⟨m.runA, .inl rfl, hlow, hhigh⟩
    · have hfirst : (m.runB - 1#8).toNat = m.runB.toNat - 1 := by bv_omega
      exact ⟨m.runB - 1#8, .inr ⟨hb, by bv_omega⟩, by omega, by omega⟩
  · rintro ⟨run, rfl | ⟨hb, hrun⟩, hlow, hhigh⟩
    · exact .inl ⟨hlow, hhigh⟩
    · exact .inr ⟨hb, by omega, by omega⟩

theorem namedUnder_overlay_iff (hs : s.EntriesChecked) :
    s.NamedUnder n 3#8 ↔ ∃ (i : Fin 32) (run : Byte), (s.matchEntry i).state = .on
      ∧ (s.matchEntry i).image.action = 3#8
      ∧ (run = (s.matchEntry i).image.runA
        ∨ ((s.matchEntry i).image.runB ≠ 0 ∧ run.toNat + 1 = (s.matchEntry i).image.runB.toNat))
      ∧ run.toNat ≤ n.val ∧ n.val < run.toNat + 2 ^ (s.matchEntry i).image.runLength.toNat := by
  refine exists_congr fun i => ?_
  simp only [exists_and_left]
  refine and_congr_right fun hon => and_congr_right fun ha => ?_
  rw [namedSlots_of_overlay ha]
  exact mem_overlaySlots_iff_run (runLength_of_checked hs hon ha) n.val

end Role

theorem readSlot_eq (n : SlotId) (s : State) :
    readSlot n s = (s, { status := .ok, payload := snapshotPayload n (s.role n) (s.slot n) }) := rfl

/-- Settles O20: the snapshot field by field, and the role by the queue run and the slots that checked entries name. -/
theorem readSlotReturnsTheSnapshot : Obligations.ReadSlotReturnsTheSnapshot := by
  intro s seq slot hx
  refine ⟨slotCommand_of_ge _ hx, fun n hn => ⟨_, slotCommand_of_eq _ hx hn (readSlot_eq n s), ?_⟩⟩
  obtain ⟨howner, hrecord, hnew, hoverrun, hkind, hzero⟩ := flagsByte_bits (s.slot n)
  obtain ⟨hrole, houtcome, hzero2, hzero6⟩ := roleByte_fields (s.role n) (s.slot n).outcome
  rw [snapshot_flags, snapshot_role]
  refine ⟨snapshot_number _ _ _ hn, howner, hrecord, hnew, hoverrun, hkind, hzero, ?_, hzero2, hzero6,
    snapshot_source _ _ _, snapshot_beats _ _ _, snapshot_sequence _ _ _, snapshot_timeStamp _ _ _,
    snapshot_lineAddress _ _ _, fun j i => ?_, getElem_snapshot_data _ _ _,
    fun queue capture overlay hqueue hcapture hoverlay hs => ?_⟩
  · rw [houtcome]
    cases (s.slot n).outcome <;> rfl
  · rw [getElem_snapshot_enables, getLsbD_enableByte]
  · rw [hrole, hqueue.trans (inRun_iff _ _).symm, hcapture.trans (namedUnder_captureSlot_iff hn).symm,
      hoverlay.trans (namedUnder_overlay_iff hs).symm]
    refine ⟨fun hq => ⟨?_, fun hc => not_inRun_of_named hs hc hq, fun ho => not_inRun_of_named hs ho hq⟩,
      fun hc => ⟨?_, not_inRun_of_named hs hc, not_overlay_of_capture hs hc⟩,
      fun ho => ⟨?_, not_inRun_of_named hs ho, fun hc => not_overlay_of_capture hs hc ho⟩, fun hq hc ho => ?_⟩
    · rw [role_of_queue hq]
      rfl
    · rw [role_of_capture (not_inRun_of_named hs hc) hc]
      rfl
    · rw [role_of_overlay (not_inRun_of_named hs ho) (fun hc => not_overlay_of_capture hs hc ho) ho]
      rfl
    · rw [role_of_none hq hc ho]
      rfl

end Sys2Proof.Machine
end

section
/-! PROOFS. Capture slots and the Arrival History: ACK_SLOT, READ_HISTORY, the note and the notice of a record (O21,
O24, O41). -/

namespace Sys2Proof.Machine

/-! ### ACK_SLOT (R73) -/

section AckSlot
variable {s : State} {n : SlotId} {sequence : HalfWord}

/-- The ACK_SLOT payload byte by byte (11.8). -/
theorem ackBytes_eq {slot : Byte} (h : slot.toNat = n.val) (sl : Slot) :
    ackBytes n sl = [slot, sl.sequence.setWidth 8, (sl.sequence >>> 8).setWidth 8,
      if sl.record = .held then 0x01#8 else 0x00#8, if sl.overrun then 0x01#8 else 0x00#8] := by
  have hheld : sl.record.isHeld = true ↔ sl.record = .held := by cases sl.record <;> decide
  have hslot : BitVec.ofNat 8 n.val = slot := by rw [← h, BitVec.ofNat_toNat, BitVec.setWidth_eq]
  simp only [ackBytes, leBytes_two, hslot, hheld, List.cons_append, List.nil_append]

theorem ackSlot_of_named (hr : (s.slot n).record = .held) (hq : (s.slot n).sequence = sequence) :
    ackSlot sequence n s = (s.setSlot n { s.slot n with new := false, overrun := false },
      answerWith .ok (ackBytes n (s.slot n))) := if_pos ⟨hr, hq⟩

theorem ackSlot_of_stale (h : (s.slot n).record = .empty ∨ (s.slot n).sequence ≠ sequence) :
    ackSlot sequence n s = (s, answerWith .stale (ackBytes n (s.slot n))) := by
  refine if_neg fun ⟨hr, hq⟩ => ?_
  obtain hempty | hother := h
  · cases hempty.symm.trans hr
  · exact hother hq

end AckSlot

/-- Settles O21: by the slot number, and then by whether the sequence names the record that the slot holds. -/
theorem ackSlotClearsTheFlagsOfTheNamedRecord : Obligations.AckSlotClearsTheFlagsOfTheNamedRecord := by
  intro s seq slot sequence hx
  refine ⟨slotCommand_of_ge _ hx, fun n hn => ⟨_, congrArg payloadOf (ackBytes_eq hn (s.slot n)), fun hr hq => ?_,
    fun hstale => ?_⟩⟩
  · exact slotCommand_of_eq _ hx hn (ackSlot_of_named hr hq)
  · exact slotCommand_of_eq _ hx hn (ackSlot_of_stale hstale)

/-! ### READ_HISTORY (R78) -/

section ReadHistory
variable {s : State}

theorem readHistory_of_empty (h : s.history = []) : readHistory s = (s, answer .empty) := by
  rw [readHistory, h]

theorem readHistory_of_notes (h : s.history ≠ []) :
    readHistory s = ({ s with history := s.history.drop 8 }, answerWith .ok (historyBytes (s.history.take 8))) := by
  unfold readHistory
  split
  · exact absurd ‹_› h
  · rfl

/-- The READ_HISTORY payload of the oldest notes byte by byte (11.8). -/
theorem historyBytes_take (notes : List Note) :
    historyBytes (notes.take 8) = BitVec.ofNat 8 (min 8 notes.length) :: (notes.take 8).flatMap fun note : Note =>
      [BitVec.ofNat 8 note.slot.val, note.sequence.setWidth 8, (note.sequence >>> 8).setWidth 8] := by
  have hnote : noteBytes = fun note : Note =>
      [BitVec.ofNat 8 note.slot.val, note.sequence.setWidth 8, (note.sequence >>> 8).setWidth 8] :=
    funext fun note => by rw [noteBytes, leBytes_two]
  rw [historyBytes, hnote, List.length_take]

end ReadHistory

/-- Settles O24: by whether the list holds a note. -/
theorem readHistoryRemovesTheOldestNotes : Obligations.ReadHistoryRemovesTheOldestNotes := by
  intro s seq hx
  have hrun : exec (.readHistory seq) s = .next ((readHistory s).1.store 0x29#8 seq (readHistory s).2) :=
    congrArg Host.Outcome.next (linkExecute_of_executes hx _)
  refine ⟨fun h => ?_, fun h => ?_⟩
  · rw [hrun, readHistory_of_empty h]
  · rw [hrun, readHistory_of_notes h, historyBytes_take]

/-! ### The note and the notice of a record (R60, R76, R77, R118) -/

section NoteAndNotice
variable {s : State} {w : Work} {g : Governor} {note : Note}

theorem appendNote_of_room (h : s.history.length < 32) :
    s.appendNote note = { s with history := s.history ++ [note] } := if_pos h

/-- A full history drops its oldest note for the one appended, counted and raised (R77). -/
theorem appendNote_of_full (h : 32 ≤ s.history.length) :
    s.appendNote note
      = State.countAndRaise .historyLosses .historyLoss { s with history := s.history.tail ++ [note] } := by
  rw [State.appendNote, if_neg (Nat.not_lt.mpr h), List.drop_one]

theorem takeNotice_of_not_stopping (h : s.session.state ≠ .stopping) : s.takeNotice = s := by
  unfold State.takeNotice
  split
  · exact absurd ‹_› h
  all_goals rfl

theorem takeNotice_of_more (h : s.session.state = .stopping) (hr : 2 ≤ s.session.remaining.toNat) :
    s.takeNotice = s.setSession { s.session with remaining := s.session.remaining - 1 } := by
  rw [State.takeNotice, h]
  exact if_neg (Nat.not_le.mpr hr)

theorem takeNotice_of_last (h : s.session.state = .stopping) (hr : s.session.remaining = 1) :
    s.takeNotice = s.freeze 0 := by
  rw [State.takeNotice, h, hr]
  rfl

theorem exec_historyAppend_of_append (hw : s.work = some w) (hst : w.stage = .append g note) :
    exec .historyAppend s
      = .next (((s.appendNote note).setTrack w.entry
          { s.track w.entry with link := some { slot := note.slot, sequence := note.sequence } }).setWork
          (some { w with stage := .notice g })) := by
  obtain ⟨r, t, stage⟩ := w
  subst hst
  simp only [exec, execHistoryAppend, hw, State.placeLink, State.appendNote_track]

theorem exec_recordNotice_of_notice (hw : s.work = some w) (hst : w.stage = .notice g) :
    exec .recordNotice s = .next ((s.takeNotice.forward w).afterAction w g) := by
  obtain ⟨r, t, stage⟩ := w
  subst hst
  simp only [exec, execRecordNotice, hw, State.forwardAndGoOn]

end NoteAndNotice

/-- Settles O41: the note by the room in the history, the notice by the session that it finds. -/
theorem noteAndNoticeOfARecord : Obligations.NoteAndNoticeOfARecord := by
  intro s w g hw
  refine ⟨fun note hst => ?_, fun hst => ?_⟩
  · rw [exec_historyAppend_of_append hw hst]
    refine ⟨fun hroom => ?_, fun hfull => ?_⟩
    · rw [appendNote_of_room hroom]
    · rw [appendNote_of_full hfull]
  · rw [exec_recordNotice_of_notice hw hst]
    refine ⟨fun hs => ?_, fun hs hr => ?_, fun hs hr => ?_⟩
    · rw [takeNotice_of_not_stopping hs]
    · rw [takeNotice_of_more hs hr]
    · rw [takeNotice_of_last hs hr, State.freeze]

end Sys2Proof.Machine
end

section
/-! PROOFS. The response limit's expiry and the memory responses (O48, O49). -/

namespace Sys2Proof.Machine

/-! ### RESPONSE_LIMIT_EXPIRY (R135) -/

theorem exec_responseLimitExpiry (s : State) (tag : Tag) :
    exec (.responseLimitExpiry tag) s = .next (s.settleResponse tag) := rfl

/-- Settles O49: by whether the expiry of the entry is due. -/
theorem responseExpiryAnswersNoAnswer : Obligations.ResponseExpiryAnswersNoAnswer := by
  rintro s tag _ rfl
  rw [exec_responseLimitExpiry]
  refine ⟨fun hf hd => ?_, fun h => ?_⟩
  · rw [s.settleResponse_of_due hf hd, State.expireResponse]
  · rw [s.settleResponse_of_not_due fun hf => h.resolve_left (not_not_intro hf)]

/-! ### MEMORY_RESPONSE (R134, R138, R139) -/

section MemoryResponse
variable {s : State} {tag : Tag} {status : MemStatus} {beats : List Beat}

/-- While PORST_N is high a memory response is taken after the expiry of its entry, if that is due (R167). -/
theorem exec_memoryResponse_of_high (hp : s.porstAsserted = false) :
    exec (.memoryResponse tag status beats) s = .next ((s.settleResponse tag).takeResponse tag status beats) := by
  simp [exec, execMemoryResponse, hp]

/-- Where no expiry is due a memory response meets the entry as it stands. -/
theorem exec_memoryResponse_of_not_due (hp : s.porstAsserted = false)
    (h : (s.track tag).state = .forwarded → (s.track tag).timer ≠ .expiryDue) :
    exec (.memoryResponse tag status beats) s = .next (s.takeResponse tag status beats) := by
  rw [exec_memoryResponse_of_high hp, s.settleResponse_of_not_due h]

/-- A fault makes MEM_FAULT of the record, whatever the kind of its request (R67). -/
theorem closeByResponse_fault (kind : Kind) (taken : List Beat) :
    closeByResponse kind .fault taken = fun sl => { sl with outcome := .memFault } := by
  funext sl
  cases kind <;> rfl

theorem bufferOf_fault (kind : Kind) (taken : List Beat) :
    bufferOf kind .fault taken = { status := .memoryFault, beats := [] } := by
  cases kind <;> rfl

theorem bufferOf_done (kind : Kind) (taken : List Beat) :
    bufferOf kind .done taken = { status := .done, beats := if kind = .read then taken else [] } := by
  cases kind <;> rfl

theorem takeResponse_of_sent (h : (s.track tag).state = .forwarded) (hs : (s.track tag).sent = true) :
    s.takeResponse tag status beats = s.completeByResponse tag status beats := by
  rw [State.takeResponse, h]
  exact if_pos hs

theorem takeResponse_of_orphan (h : (s.track tag).state = .held) (ho : (s.track tag).orphan = true) :
    s.takeResponse tag status beats = (s.setTrack tag { s.track tag with orphan := false }).count .lateResponses := by
  rw [State.takeResponse, h]
  exact if_pos ho

theorem takeResponse_of_orphaned (h : (s.track tag).state = .orphaned) :
    s.takeResponse tag status beats = (s.setTrack tag ((s.track tag).cleared .free)).count .lateResponses := by
  rw [State.takeResponse, h]

/-- A response that no sent request waits for, and none late, is a stray (R139). -/
theorem takeResponse_of_stray (h : (s.track tag).state = .free ∨ (s.track tag).state = .classifying
      ∨ ((s.track tag).state = .held ∧ (s.track tag).orphan = false)
      ∨ ((s.track tag).state = .forwarded ∧ (s.track tag).sent = false)) :
    s.takeResponse tag status beats = s.count .strayResponses := by
  rw [State.takeResponse]
  obtain hst | hst | ⟨hst, hmark⟩ | ⟨hst, hmark⟩ := h
  · rw [hst]
  · rw [hst]
  · simp only [hst, hmark, Bool.false_eq_true, if_false]
  · simp only [hst, hmark, Bool.false_eq_true, if_false]

end MemoryResponse

/-- Settles O48: the expiry first, which is taken but once, and then by the entry that the response meets. -/
theorem memoryResponsesCompleteLateOrStray : Obligations.MemoryResponsesCompleteLateOrStray := by
  rintro s tag beats taken _ status hp rfl htaken
  replace htaken : takenBeats (s.track tag).beats beats = taken := htaken.symm
  refine ⟨fun t ht => ?_, fun hf hsent hd => ?_, fun hst ho => ?_, fun hst => ?_, fun h => ?_⟩
  · cases ht
    rw [exec_memoryResponse_of_high hp, exec_memoryResponse_of_high ((s.settleResponse_porstAsserted tag).trans hp),
      s.settleResponse_settleResponse]
  · rw [exec_memoryResponse_of_not_due hp fun _ => hd, takeResponse_of_sent hf hsent, State.completeByResponse, htaken]
    refine ⟨?_, ?_⟩
    · rintro rfl
      rw [bufferOf_done, State.noticeFault]
    · rintro rfl
      rw [closeByResponse_fault, bufferOf_fault, State.noticeFault]
  · rw [exec_memoryResponse_of_not_due hp (by simp [hst]), takeResponse_of_orphan hst ho]
  · rw [exec_memoryResponse_of_not_due hp (by simp [hst]), takeResponse_of_orphaned hst, TrackerEntry.cleared]
  · have hnotDue : (s.track tag).state = .forwarded → (s.track tag).timer ≠ .expiryDue := fun hf => by
      have hunsent : (s.track tag).sent = false ∧ (s.track tag).timer ≠ .expiryDue := by simpa [hf] using h
      exact hunsent.2
    rw [exec_memoryResponse_of_not_due hp hnotDue,
      takeResponse_of_stray (h.imp_right (.imp_right (.imp_right fun ⟨hf, hunsent, _⟩ => ⟨hf, hunsent⟩)))]

end Sys2Proof.Machine
end

section
/-! PROOFS. CONFIG_QUEUE and POP_QUEUE (O25, O26). -/

namespace Sys2Proof.Machine

/-- A tool command that is executed runs, and its answer is stored (R151). -/
theorem toolCommand_of_eq {s t : State} {code seq : Byte} {a : Answer} {run : State → State × Answer}
    (hx : s.Executes code seq) (hr : run s = (t, a)) :
    (.next (linkExecute code seq run s) : Host.Outcome State Fault Refusal) = .next (t.store code seq a) := by
  rw [linkExecute_of_executes hx, hr]

/-! ### CONFIG_QUEUE (R82 to R84) -/

section ConfigQueue
variable {s : State} {first count mode watermark : Byte}

theorem configQueue_of_not_idle (h : s.session.state ≠ .idle) :
    configQueue first count mode watermark s = (s, answer .badState) := if_neg h

theorem configQueue_of_zero (h : s.session.state = .idle) (hc : count = 0) :
    configQueue first count mode watermark s = unconfigureQueue s := (if_pos h).trans (if_pos hc)

theorem configQueue_of_count (h : s.session.state = .idle) (hc : count ≠ 0) :
    configQueue first count mode watermark s = configureQueue first count mode watermark s :=
  (if_pos h).trans (if_neg hc)

theorem any_acts_captureQueue_iff :
    s.table.toList.any (fun e => e.acts .captureQueue) = true
      ↔ ∃ i : Fin 32, (s.matchEntry i).state = .on ∧ (s.matchEntry i).image.action = 2#8 := by
  simp only [any_table, MatchEntry.acts, Bool.and_eq_true, beq_iff_eq, actionOf_eq_captureQueue]

theorem unconfigureQueue_of_acts
    (h : ∃ i : Fin 32, (s.matchEntry i).state = .on ∧ (s.matchEntry i).image.action = 2#8) :
    unconfigureQueue s = (s, answer .badState) := if_pos (any_acts_captureQueue_iff.mpr h)

/-- The unconfigured queue has no run to empty. -/
theorem emptyRun_unconfigured (slots : Vector Slot 64) : emptyRun Queue.unconfigured slots = slots := by
  apply Vector.ext
  intro i hi
  have h := getElem_emptyRun Queue.unconfigured slots ⟨i, hi⟩
  rw [inRun_unconfigured, if_neg Bool.false_ne_true] at h
  exact h

theorem unconfigureQueue_of_not_acts
    (h : ∀ i : Fin 32, (s.matchEntry i).state = .on → (s.matchEntry i).image.action ≠ 2#8) :
    unconfigureQueue s
      = ({ s with slots := emptyRun s.queue s.slots, queue := Queue.unconfigured }, answer .ok) := by
  have hnone : ¬ s.table.toList.any (fun e => e.acts .captureQueue) = true := by
    rw [any_acts_captureQueue_iff]
    rintro ⟨i, hon, ha⟩
    exact h i hon ha
  rw [unconfigureQueue, if_neg hnone, State.reconfigure, emptyRun_unconfigured]

theorem queueFieldsInRange_iff :
    queueFieldsInRange count mode watermark = true ↔ 2 ≤ count.toNat ∧ count.toNat ≤ 32 ∧ mode.toNat ≤ 1
      ∧ 1 ≤ watermark.toNat ∧ watermark.toNat ≤ count.toNat := by
  simp only [queueFieldsInRange, Bool.and_eq_true, decide_eq_true_eq, queueModeOf_isSome, and_assoc]

theorem any_namedByOn_eq_false_iff :
    (runSlots first.toNat count.toNat).any (fun n => s.namedByOn n) = false
      ↔ ∀ n : Nat, first.toNat ≤ n → n < first.toNat + count.toNat → s.namedByOn n = false := by
  simp only [List.any_eq_false, mem_runSlots, Bool.not_eq_true, and_imp]

/-- The owners of a run that lies within the Slot Store are those of its slots (R82). -/
theorem any_ownerAt_eq_false_iff (hfit : first.toNat + count.toNat ≤ 64) :
    (runSlots first.toNat count.toNat).any (fun n => s.ownerAt n == .tool) = false
      ↔ ∀ n : SlotId, first.toNat ≤ n.val → n.val < first.toNat + count.toNat → (s.slot n).owner = .unit := by
  have hunit (n : SlotId) : ¬ (s.ownerAt n.val == .tool) = true ↔ (s.slot n).owner = .unit := by
    have hown : s.ownerAt n.val = (s.slot n).owner := by simp [State.ownerAt]
    rw [hown]
    cases (s.slot n).owner <;> decide
  simp only [List.any_eq_false, mem_runSlots, ← hunit]
  exact ⟨fun h n hlow hhigh => h n.val ⟨hlow, hhigh⟩,
    fun h n ⟨hlow, hhigh⟩ => h ⟨n, Nat.lt_of_lt_of_le hhigh hfit⟩ hlow hhigh⟩

/-- CONFIG_QUEUE's checks in their order, each by what it looks at (R82). -/
theorem queueFailure_eq {inField inRange apart unitOwned : Prop} [Decidable inField] [Decidable inRange]
    [Decidable apart] [Decidable unitOwned]
    (hfield : inField ↔ 2 ≤ count.toNat ∧ count.toNat ≤ 32 ∧ mode.toNat ≤ 1 ∧ 1 ≤ watermark.toNat
      ∧ watermark.toNat ≤ count.toNat)
    (hrange : inRange ↔ first.toNat + count.toNat ≤ 64)
    (hapart : apart ↔ ∀ n : Nat, first.toNat ≤ n → n < first.toNat + count.toNat → s.namedByOn n = false)
    (howned : unitOwned ↔ ∀ n : SlotId, first.toNat ≤ n.val → n.val < first.toNat + count.toNat →
      (s.slot n).owner = .unit) :
    s.queueFailure first count mode watermark
      = if ¬ inField then some .field else if ¬ inRange then some .slotRange
        else if ¬ apart then some .slotConflict else if ¬ unitOwned then some .slotOwner else none := by
  rw [← queueFieldsInRange_iff] at hfield
  rw [← any_namedByOn_eq_false_iff] at hapart
  simp only [State.queueFailure, hfield, hrange, hapart, Bool.not_eq_true, Bool.not_eq_false, Nat.not_le]
  split
  · rfl
  · split
    · rfl
    · rename_i hfit
      rw [← any_ownerAt_eq_false_iff (Nat.not_lt.mp hfit)] at howned
      simp only [howned, Bool.not_eq_false]

theorem configureQueue_of_failure {reason : Reason} (h : s.queueFailure first count mode watermark = some reason) :
    configureQueue first count mode watermark s = (s, badArg reason) := by
  rw [configureQueue, h]

theorem configureQueue_of_checked (h : s.queueFailure first count mode watermark = none) :
    configureQueue first count mode watermark s
      = (s.reconfigure (queueOf first count mode watermark), answer .ok) := by
  rw [configureQueue, h]

theorem queueOf_mode (h : mode.toNat ≤ 1) :
    (queueOf first count mode watermark).mode = if mode.toNat = 0 then .stopWhenFull else .ring := by
  obtain h0 | h1 : mode.toNat = 0 ∨ mode.toNat = 1 := by omega
  · simp only [queueOf, queueModeOf, h0, Option.getD_some, if_true]
  · simp only [queueOf, queueModeOf, h1, Option.getD_some, Nat.one_ne_zero, if_false]

end ConfigQueue

/-- Settles O25: by the session, by the count, and then by the first check that fails. -/
theorem configQueueChecksAndSetsTheRun : Obligations.ConfigQueueChecksAndSetsTheRun := by
  classical
  intro s seq first count mode watermark hx
  refine ⟨fun h => ?_, fun h hc => ⟨fun hon => ?_, fun hoff => ?_⟩,
    fun h hc inField inRange apart unitOwned hfield hrange hapart howned => ?_, fun q n => ?_⟩
  · exact toolCommand_of_eq hx (configQueue_of_not_idle h)
  · exact toolCommand_of_eq hx ((configQueue_of_zero h hc).trans (unconfigureQueue_of_acts hon))
  · exact toolCommand_of_eq hx ((configQueue_of_zero h hc).trans (unconfigureQueue_of_not_acts hoff))
  · have hchecks := queueFailure_eq hfield hrange hapart howned
    have hrefused {reason : Reason} (hf : s.queueFailure first count mode watermark = some reason) :
        exec (.configQueue seq first count mode watermark) s = .next (s.store 0x30#8 seq (badArg reason)) :=
      toolCommand_of_eq hx ((configQueue_of_count h hc).trans (configureQueue_of_failure hf))
    refine ⟨fun h1 => hrefused ?_, fun h1 h2 => hrefused ?_, fun h1 h2 h3 => hrefused ?_,
      fun h1 h2 h3 h4 => hrefused ?_, fun h1 h2 h3 h4 => ⟨queueOf first count mode watermark, ?_, rfl, rfl, rfl, ?_,
        rfl, rfl⟩⟩
    · simp [hchecks, h1]
    · simp [hchecks, h1, h2]
    · simp [hchecks, h1, h2, h3]
    · simp [hchecks, h1, h2, h3, h4]
    · have hnone : s.queueFailure first count mode watermark = none := by simp [hchecks, h1, h2, h3, h4]
      exact toolCommand_of_eq hx ((configQueue_of_count h hc).trans (configureQueue_of_checked hnone))
    · obtain ⟨_, _, hmode, _⟩ := hfield.mp h1
      exact queueOf_mode hmode
  · simp only [getElem_emptyRun, inRun_iff]
    rfl

/-! ### POP_QUEUE (R90) -/

section PopQueue
variable {s : State}

theorem popQueue_of_unconfigured (h : s.queue.count = 0) : popQueue s = (s, answer .badState) := if_pos h

theorem popQueue_of_empty (hc : s.queue.count ≠ 0) (ho : s.queue.occupancy = 0) :
    popQueue s = (s, answer .empty) := by
  rw [popQueue, if_neg hc, if_pos ho]

/-- A pop of the record in slot `n`, the oldest of the run (R90). -/
theorem popQueue_of_held {n : SlotId} (hc : s.queue.count ≠ 0) (ho : s.queue.occupancy ≠ 0)
    (hn : n.val = s.queue.first + s.queue.oldest) :
    popQueue s = ((s.setSlot n { s.slot n with record := .empty }).setQueue
      { s.queue with oldest := (s.queue.oldest + 1) % s.queue.count, occupancy := s.queue.occupancy - 1 },
      answerWith .ok (snapshotBytes n .queue (s.slot n))) := by
  rw [popQueue, if_neg hc, if_neg ho, State.removeOldest, slotAt_eq hn, Queue.advance]

end PopQueue

/-- Settles O26: by the configuration, and then by whether a record is held. -/
theorem popQueueRemovesTheOldestRecord : Obligations.PopQueueRemovesTheOldestRecord := by
  intro s seq hx
  refine ⟨fun hc => ?_, fun hc ho => ?_, fun n hc ho hn => ?_⟩
  · exact toolCommand_of_eq hx (popQueue_of_unconfigured hc)
  · exact toolCommand_of_eq hx (popQueue_of_empty hc ho)
  · exact toolCommand_of_eq hx (popQueue_of_held hc ho hn)

end Sys2Proof.Machine
end

section
/-! PROOFS. SWITCH_BANK: the selector, and the stall it re-derives (O27). -/

namespace Sys2Proof.Machine

section SwitchBank
variable {s : State} {group bank : Byte} {k : Fin 4} {named : Bank} {w : Work} {g : Governor}

theorem bankOf_of_eq (h : bank.toNat = if named = .a then 0 else 1) : bankOf bank = some named := by
  cases named with
  | a => rw [bankOf, h]; rfl
  | b => rw [bankOf, h]; rfl

theorem bankOf_of_ge (h : bank.toNat ≥ 2) : bankOf bank = none := by
  unfold bankOf
  split
  · omega
  · omega
  · rfl

/-- A group above 3 or a byte that is no bank is refused (R105, R178). -/
theorem switchBank_of_out (h : group.toNat ≥ 4 ∨ bank.toNat ≥ 2) :
    switchBank group bank s = (s, badArg .field) := by
  rw [switchBank]
  split
  · rw [bankOf_of_ge (h.resolve_left (Nat.not_le.mpr ‹_›))]
  · rfl

theorem switchBank_of_eq (hg : group.toNat = k.val) (hb : bank.toNat = if named = .a then 0 else 1) :
    switchBank group bank s = setBank k named s := by
  have hlt : group.toNat < 4 := hg ▸ k.isLt
  have hk : (⟨group.toNat, hlt⟩ : Fin 4) = k := Fin.ext hg
  rw [switchBank, dif_pos hlt, bankOf_of_eq hb, hk]

theorem setBank_of_held (h : s.banks[k] = named) : setBank k named s = (s, answer .ok) := if_pos h

/-- A selector that takes another bank has a stall of its group meet its new slot (R105). -/
theorem setBank_of_other (h : s.banks[k] ≠ named) :
    setBank k named s = (({ s with banks := s.banks.set k named } : State).rederiveGroup k, answer .ok) := if_neg h

theorem rederiveGroup_of_no_stall (h : ∀ w g n timer, s.stall = some (w, g, n, timer) → groupOf g.image ≠ k) :
    s.rederiveGroup k = s := by
  unfold State.rederiveGroup
  split
  · rfl
  · exact if_neg (h _ _ _ _ ‹_›)

theorem rederiveGroup_of_stall {n : SlotId} {timer : LimitTimer} (hs : s.stall = some (w, g, n, timer))
    (hk : groupOf g.image = k) : s.rederiveGroup k = s.rederive w g timer := by
  rw [State.rederiveGroup, hs]
  exact if_pos hk

theorem rederive_of_unit {timer : LimitTimer} (ho : (s.slot (s.servingSlot g.image w.request)).owner = .unit) :
    s.rederive w g timer = s.serveStalled w g (s.servingSlot g.image w.request) timer := by
  rw [State.rederive, ho]

theorem rederive_of_tool {timer : LimitTimer} (ho : (s.slot (s.servingSlot g.image w.request)).owner = .tool) :
    s.rederive w g timer
      = s.setWork (some { w with stage := .stalled g (s.servingSlot g.image w.request) timer }) := by
  rw [State.rederive, ho]

/-- Under the selector just set, the serving slot is that of the bank named (R97). -/
theorem servingSlot_set_bank (m : EntryImage) (r : Request) :
    ({ s with banks := s.banks.set (groupOf m) named } : State).servingSlot m r = servingSlotOf m named r := by
  simp [State.servingSlot]

/-- The expiry of the stall limit and a change of the selectors leave each other as they are. -/
theorem expireStall_set_banks (s : State) (banks : Vector Bank 4) (w : Work) (g : Governor) :
    ({ s with banks := banks } : State).expireStall w g = { s.expireStall w g with banks := banks } := by
  rw [State.expireStall, State.expireStall, afterAction_eq, afterAction_eq]
  rfl

end SwitchBank

/-- Settles O27: by the arguments, by the bank the selector holds, and then by the stall that the new slot meets. -/
theorem switchBankSetsTheSelectorAndRederivesAStall : Obligations.SwitchBankSetsTheSelectorAndRederivesAStall := by
  intro s seq group bank hx
  refine ⟨fun h => toolCommand_of_eq hx (switchBank_of_out h), fun k named hg hb => ⟨fun hheld => ?_,
    fun hother s' hs' => ?_⟩⟩
  · exact toolCommand_of_eq hx ((switchBank_of_eq hg hb).trans (setBank_of_held hheld))
  · have hexec {t : State} (ht : s'.rederiveGroup k = t) :
        exec (.switchBank seq group bank) s = .next (t.store 0x38#8 seq (answer .ok)) := by
      refine toolCommand_of_eq hx ((switchBank_of_eq hg hb).trans ((setBank_of_other hother).trans ?_))
      rw [← hs', ht]
    have hstall : s'.stall = s.stall := stall_congr (by rw [hs'])
    refine ⟨fun hno => hexec (rederiveGroup_of_no_stall (hstall ▸ hno)), fun w g n timer hst hk => ?_⟩
    subst hk
    have hserving : s'.servingSlot g.image w.request = servingSlotOf g.image named w.request :=
      hs' ▸ servingSlot_set_bank g.image w.request
    have hslot : s'.slot (s'.servingSlot g.image w.request) = s.slot (servingSlotOf g.image named w.request) := by
      rw [hserving, hs']
      rfl
    have hrederived := rederiveGroup_of_stall (hstall.trans hst) rfl
    rw [← hslot, ← hserving]
    refine ⟨fun ho hdue t ht => ?_, fun ho hnot => ?_, fun ho => ?_⟩
    · subst hdue
      have hexpired : s.expireStall w g = t := (s.settleStall_of_due hst).symm.trans (Host.Outcome.next.inj ht)
      rw [hexec (hrederived.trans (rederive_of_unit ho)), serveStalled_of_due, hs', expireStall_set_banks, ← hexpired,
        State.expireStall_banks]
    · rw [hexec (hrederived.trans (rederive_of_unit ho)), serveStalled_of_not_due hnot]
    · exact hexec (hrederived.trans (rederive_of_tool ho))

end Sys2Proof.Machine
end

section
/-! PROOFS. The ticks of the Time Base and of the limit timers (O32). -/

namespace Sys2Proof.Machine

section Tick
variable {s : State}

/-- A block clock below the prescaler raises the phase alone (R164). -/
theorem exec_tick_of_phase_lt (hp : s.porstAsserted = false) (h : s.timeBase.phase + 1 < s.timeBase.prescaler) :
    exec .tick s = .next { s with timeBase := { s.timeBase with phase := s.timeBase.phase + 1 } } := by
  simp only [exec, execTick, hp, h, Bool.false_eq_true, if_true, if_false]

/-- The block clock at which the phase reaches the prescaler is a tick, taken once no expiry is due (R164, R167). -/
theorem exec_tick_of_phase_ge (hp : s.porstAsserted = false) (h : s.timeBase.prescaler ≤ s.timeBase.phase + 1) :
    exec .tick s = .next s.settleTimers.tick := by
  simp only [exec, execTick, hp, Nat.not_lt.mpr h, Bool.false_eq_true, if_false]

theorem timeBase_tick_of_none {b : TimeBase} (h : b.waiting = none) :
    b.tick = { b with value := b.value + 1, phase := 0 } := by
  rw [TimeBase.tick, h]

theorem timeBase_tick_of_some {b : TimeBase} {p : PendingBase} (h : b.waiting = some p) :
    b.tick = { value := p.load.getD (b.value + 1), prescaler := p.prescaler, phase := 0, waiting := none } := by
  obtain ⟨prescaler, load⟩ := p
  rw [TimeBase.tick, h]
  cases load <;> rfl

/-- After a tick the phase is 0 and nothing is pending (R164, R165). -/
theorem timeBase_tick_phase_waiting (b : TimeBase) : b.tick.phase = 0 ∧ b.tick.waiting = none := by
  cases h : b.waiting with
  | none => rw [timeBase_tick_of_none h]; exact ⟨rfl, h⟩
  | some p => rw [timeBase_tick_of_some h]; exact ⟨rfl, rfl⟩

/-- A tick falls on the timer of a FORWARDED entry, and on no other (R135). -/
theorem trackerEntry_tick_eq (e : TrackerEntry) :
    e.tick = if e.state = .forwarded then { e with timer := tickTimer e.timer } else e := by
  unfold TrackerEntry.tick
  split <;> simp [*]

theorem track_tick (s : State) (e : Tag) : s.tick.track e = (s.track e).tick := by
  simp [State.track, State.tick]

/-- Outside a stall no timer of the Classifier runs (R103). -/
theorem tick_work_of_no_stall (h : s.stall = none) : s.tick.work = s.work := by
  rw [stall_eq_none_iff] at h
  rw [State.tick_work]
  cases hw : s.work with
  | none => rfl
  | some w =>
    have hstage : w.stage.tick = w.stage := by
      cases hst : w.stage with
      | stalled g n timer => exact absurd hst (h w g n timer hw)
      | _ => rfl
    rw [Option.map_some, hstage]

/-- During a stall the tick falls on its timer (R103). -/
theorem tick_work_of_stall {w : Work} {g : Governor} {n : SlotId} {timer : LimitTimer}
    (h : s.stall = some (w, g, n, timer)) :
    s.tick.work = some { w with stage := .stalled g n (tickTimer timer) } := by
  obtain ⟨hw, hst⟩ := (stall_eq_some s w g n timer).mp h
  rw [State.tick_work, hw, Option.map_some, hst, Stage.tick]

end Tick

/-- Settles O32: by the phase; a tick with no expiry due is then taken apart into the Time Base, the Tracker's timers and
that of the stall. -/
theorem ticksAdvanceTheTimeBaseAndEveryTimer : Obligations.TicksAdvanceTheTimeBaseAndEveryTimer := by
  intro s hp
  refine ⟨exec_tick_of_phase_lt hp, fun h => ?_, fun h hnone => ?_, rfl, rfl, fun n hn => if_neg (Nat.not_le.mpr hn)⟩
  · rw [s.afterExpiries_eq, exec_tick_of_phase_ge hp h,
      exec_tick_of_phase_ge (by rwa [State.settleTimers_porstAsserted]) (by rwa [State.settleTimers_timeBase]),
      State.settleTimers_settleTimers]
  · obtain ⟨hphase, hwaiting⟩ := timeBase_tick_phase_waiting s.timeBase
    refine ⟨s.tick, ?_, rfl, hphase, hwaiting, fun hw => ?_, fun p hw => ?_, fun e => ?_, tick_work_of_no_stall,
      fun w g n timer => tick_work_of_stall⟩
    · rw [exec_tick_of_phase_ge hp h, s.settleTimers_of_noExpiryDue hnone]
    · rw [State.tick, timeBase_tick_of_none hw]
      exact ⟨rfl, rfl⟩
    · rw [State.tick, timeBase_tick_of_some hw]
      exact ⟨rfl, rfl⟩
    · rw [track_tick, trackerEntry_tick_eq]

end Sys2Proof.Machine
end

section
/-! PROOFS. The session commands (O28, O29, O30). -/

namespace Sys2Proof.Machine

/-! ### The STOP trigger that falls together with leaving FROZEN (R125) -/

/-- The request under classification, a STOP trigger that is its next step marked to be ignored (R125). -/
def stopIgnoredWork (work : Option Work) : Option Work := work.map fun w => { w with stage := w.stage.ignoreStop }

theorem leaveFrozen_eq (s : State) (x : Session) :
    s.leaveFrozen x = (s.setSession x).setWork (stopIgnoredWork s.work) := rfl

/-- Only a STOP trigger is marked. -/
theorem ignoreStop_of_ne {stage : Stage} (h : ∀ g, stage ≠ .stop g) : stage.ignoreStop = stage := by
  cases stage with
  | stop g => exact absurd rfl (h g)
  | _ => rfl

theorem stopIgnoredWork_of_ne {work : Option Work} (h : ∀ w g, work = some w → w.stage ≠ .stop g) :
    stopIgnoredWork work = work := by
  cases work with
  | none => rfl
  | some w => simp only [stopIgnoredWork, Option.map_some, ignoreStop_of_ne fun g => h w g rfl]

theorem stopIgnoredWork_of_stop {work : Option Work} {w : Work} {g : Governor} (hw : work = some w)
    (hst : w.stage = .stop g) :
    stopIgnoredWork work = some { w with stage := .stop { g with stopIgnored := true } } := by
  simp only [stopIgnoredWork, hw, Option.map_some, hst, Stage.ignoreStop]

/-! ### Each command by the session's state (R121 to R124) -/

section Tables
variable {s : State} {count : Byte}

theorem sessionArm_of_idle (h : s.session.state = .idle) :
    sessionArm count s = (s.setSession { state := .armed, remaining := count }, answer .ok) := by
  rw [sessionArm, h]

theorem sessionArm_of_frozen (h : s.session.state = .frozen) :
    sessionArm count s
      = ((s.setSession { state := .armed, remaining := count }).setWork (stopIgnoredWork s.work), answer .ok) := by
  rw [sessionArm, h, leaveFrozen_eq]

theorem sessionArm_of_refused
    (h : s.session.state = .armed ∨ s.session.state = .running ∨ s.session.state = .stopping) :
    sessionArm count s = (s, answer .badState) := by
  rcases h with h | h | h <;> rw [sessionArm, h]

theorem sessionRun_of_idle_or_armed (h : s.session.state = .idle ∨ s.session.state = .armed) :
    sessionRun count s = (s.setSession { state := .running, remaining := count }, answer .ok) := by
  rcases h with h | h <;> rw [sessionRun, h]

theorem sessionRun_of_frozen (h : s.session.state = .frozen) :
    sessionRun count s
      = ((s.setSession { state := .running, remaining := count }).setWork (stopIgnoredWork s.work), answer .ok) := by
  rw [sessionRun, h, leaveFrozen_eq]

theorem sessionRun_of_refused (h : s.session.state = .running ∨ s.session.state = .stopping) :
    sessionRun count s = (s, answer .badState) := by
  rcases h with h | h <;> rw [sessionRun, h]

/-- A halt that ends a session enters FROZEN with the count as it stands (R120, R123). -/
theorem sessionHalt_of_active
    (h : s.session.state = .armed ∨ s.session.state = .running ∨ s.session.state = .stopping) :
    sessionHalt s = ((s.setSession { s.session with state := .frozen }).raise .frozen, answer .ok) := by
  rcases h with h | h | h <;> rw [sessionHalt, h, State.freeze]

theorem sessionHalt_of_frozen (h : s.session.state = .frozen) : sessionHalt s = (s, answer .ok) := by
  rw [sessionHalt, h]

theorem sessionHalt_of_idle (h : s.session.state = .idle) : sessionHalt s = (s, answer .badState) := by
  rw [sessionHalt, h]

theorem sessionClear_of_accepted (h : s.session.state = .idle ∨ s.session.state = .frozen) :
    sessionClear s = (s.clearSession, answer .ok) := by
  rcases h with h | h <;> rw [sessionClear, h]

theorem sessionClear_of_refused
    (h : s.session.state = .armed ∨ s.session.state = .running ∨ s.session.state = .stopping) :
    sessionClear s = (s, answer .badState) := by
  rcases h with h | h | h <;> rw [sessionClear, h]

end Tables

/-- Settles O28: by the session's state; out of FROZEN, by whether a STOP trigger is the Classifier's next step. -/
theorem sessionArmAndRunFollowTheirTables : Obligations.SessionArmAndRunFollowTheirTables := by
  refine ⟨fun s seq count hx => ⟨fun hidle => ?_, fun hfrozen => ?_, fun hrefused => ?_⟩,
    fun s seq count hx => ⟨fun haccepted => ?_, fun hfrozen => ?_, fun hrefused => ?_⟩⟩
  · exact toolCommand_of_eq hx (sessionArm_of_idle hidle)
  · exact ⟨stopIgnoredWork s.work, toolCommand_of_eq hx (sessionArm_of_frozen hfrozen), stopIgnoredWork_of_ne,
      fun _ _ => stopIgnoredWork_of_stop⟩
  · exact toolCommand_of_eq hx (sessionArm_of_refused hrefused)
  · exact toolCommand_of_eq hx (sessionRun_of_idle_or_armed haccepted)
  · exact ⟨stopIgnoredWork s.work, toolCommand_of_eq hx (sessionRun_of_frozen hfrozen), stopIgnoredWork_of_ne,
      fun _ _ => stopIgnoredWork_of_stop⟩
  · exact toolCommand_of_eq hx (sessionRun_of_refused hrefused)

/-- Settles O29: by the session's state. -/
theorem sessionHaltFollowsItsTable : Obligations.SessionHaltFollowsItsTable := by
  intro s seq hx
  refine ⟨fun hactive => ?_, fun hfrozen => ?_, fun hidle => ?_⟩
  · exact toolCommand_of_eq hx (sessionHalt_of_active hactive)
  · exact toolCommand_of_eq hx (sessionHalt_of_frozen hfrozen)
  · exact toolCommand_of_eq hx (sessionHalt_of_idle hidle)

/-- Settles O30: by the session's state. -/
theorem sessionClearEmptiesQueueAndHistory : Obligations.SessionClearEmptiesQueueAndHistory := by
  intro s seq hx
  refine ⟨fun haccepted => ?_, fun hrefused => ?_⟩
  · exact toolCommand_of_eq hx (sessionClear_of_accepted haccepted)
  · exact toolCommand_of_eq hx (sessionClear_of_refused hrefused)

end Sys2Proof.Machine
end

section
/-! PROOFS. The order lists and the responses sent (O57). -/

namespace Sys2Proof.Machine

/-! ### What becomes of the order lists (R131) -/

/-- The order lists, and the sources of the Tracker entries, are as they were. -/
structure SameOrders (s t : State) : Prop where
  order : ∀ src : SourceId, t.order src = s.order src
  source : ∀ u : Tag, (t.track u).source = (s.track u).source

/-- One entry joins the tail of its source's order list, and no other list changes. -/
structure JoinsOrder (e : Tag) (s t : State) : Prop where
  order : ∀ src : SourceId, t.order src = if (s.track e).source = src then s.order src ++ [e] else s.order src
  source : ∀ u : Tag, (t.track u).source = (s.track u).source

/-- No list changes, or the entry of the request under classification joins one. -/
def OrdersGrow (s t : State) : Prop := SameOrders s t ∨ ∃ w, s.work = some w ∧ JoinsOrder w.entry s t

section Orders
variable {s t u x : State} {e : Tag} {w : Work} {g : Governor}

theorem SameOrders.refl (s : State) : SameOrders s s := ⟨fun _ => rfl, fun _ => rfl⟩

theorem SameOrders.trans (h : SameOrders s t) (k : SameOrders t u) : SameOrders s u :=
  ⟨fun src => (k.order src).trans (h.order src), fun v => (k.source v).trans (h.source v)⟩

theorem sameOrders_of_tracker (h : t.tracker = s.tracker) : SameOrders s t :=
  ⟨fun src => by simp only [State.order, h], fun v => by simp only [State.track, h]⟩

theorem JoinsOrder.trans_same (h : JoinsOrder e s t) (k : SameOrders t u) : JoinsOrder e s u :=
  ⟨fun src => (k.order src).trans (h.order src), fun v => (k.source v).trans (h.source v)⟩

theorem JoinsOrder.of_same (k : JoinsOrder e t u) (h : SameOrders s t) : JoinsOrder e s u :=
  ⟨fun src => by rw [k.order, h.order, h.source], fun v => (k.source v).trans (h.source v)⟩

theorem OrdersGrow.trans_same (h : OrdersGrow s t) (k : SameOrders t u) : OrdersGrow s u :=
  h.imp (·.trans k) fun ⟨w, hw, hj⟩ => ⟨w, hw, hj.trans_same k⟩

theorem OrdersGrow.of_same (k : OrdersGrow t u) (h : SameOrders s t) (hw : t.work = s.work) : OrdersGrow s u :=
  k.imp h.trans fun ⟨w, htw, hj⟩ => ⟨w, hw.symm.trans htw, hj.of_same h⟩

theorem ordersGrow_refl (s : State) : OrdersGrow s s := .inl (SameOrders.refl s)

theorem ordersGrow_of_tracker (h : t.tracker = s.tracker) : OrdersGrow s t := .inl (sameOrders_of_tracker h)

theorem setTrack_sameOrders {y : TrackerEntry} (h : y.source = (s.track e).source) : SameOrders s (s.setTrack e y) := by
  refine ⟨fun _ => rfl, fun v => ?_⟩
  rw [State.track_setTrack]
  split
  · rename_i he
    rw [h, he]
  · rfl

/-- An entry changes in anything but its source. -/
theorem sameOrders_of_setTrack {y : TrackerEntry} (ho : t.tracker.orders = s.tracker.orders)
    (he : t.tracker.entries = (s.setTrack e y).tracker.entries) (hy : y.source = (s.track e).source) :
    SameOrders s t := by
  have hset := setTrack_sameOrders hy
  exact ⟨fun src => by simp only [State.order, ho], fun v => by rw [← hset.source v, State.track, he]; rfl⟩

/-- The lists where an entry was put at the tail of one (R131). -/
theorem order_setOrder_append (s : State) (src v : SourceId) (e : Tag) :
    (s.setOrder src (s.order src ++ [e])).order v = if src = v then s.order v ++ [e] else s.order v := by
  rw [State.order_setOrder]
  split
  · rename_i hsrc
    rw [hsrc]
  · rfl

/-- An entry that keeps its source is put at the tail of its source's list. -/
theorem setOrder_joinsOrder {y : TrackerEntry} (h : y.source = (s.track e).source) :
    JoinsOrder e s ((s.setTrack e y).setOrder (s.track e).source (s.order (s.track e).source ++ [e])) := by
  have hsame := setTrack_sameOrders h
  exact ⟨fun src => order_setOrder_append (s.setTrack e y) _ src e, hsame.source⟩

/-! ### The operations of the Tracker (R132, R135) -/

theorem forward_joinsOrder (s : State) (w : Work) : JoinsOrder w.entry s (s.forward w) :=
  have hjoins := setOrder_joinsOrder (s := s) (e := w.entry)
    (y := { s.track w.entry with
      state := .forwarded, slotServed := false, sent := false, timer := loadTimer s.tracker.responseLimit }) rfl
  ⟨hjoins.order, hjoins.source⟩

theorem answerLocally_joinsOrder (s : State) (w : Work) (response : Response) (served : Bool) :
    JoinsOrder w.entry s (s.answerLocally w response served) :=
  setOrder_joinsOrder (s := s) (e := w.entry) rfl

theorem forwardAndGoOn_joinsOrder (s : State) (w : Work) (g : Governor) :
    JoinsOrder w.entry s (s.forwardAndGoOn w g) :=
  (forward_joinsOrder s w).trans_same (sameOrders_of_tracker (State.afterAction_tracker _ w g))

theorem serve_joinsOrder (s : State) (w : Work) (n : SlotId) : JoinsOrder w.entry s (s.serve w n) := by
  unfold State.serve
  split
  · exact answerLocally_joinsOrder s w _ true
  · exact (answerLocally_joinsOrder _ w _ true).of_same (sameOrders_of_tracker rfl)

theorem serveAndGoOn_joinsOrder (s : State) (w : Work) (g : Governor) (n : SlotId) :
    JoinsOrder w.entry s (s.serveAndGoOn w g n) :=
  (serve_joinsOrder s w n).trans_same (sameOrders_of_tracker (State.afterAction_tracker _ w g))

theorem expireStall_joinsOrder (s : State) (w : Work) (g : Governor) : JoinsOrder w.entry s (s.expireStall w g) :=
  (answerLocally_joinsOrder s w { status := .overlayUnavailable, beats := [] } false).trans_same
    (sameOrders_of_tracker (by simp [State.expireStall]))

theorem serveStalled_joinsOrder (s : State) (w : Work) (g : Governor) (n : SlotId) (timer : LimitTimer) :
    JoinsOrder w.entry s (s.serveStalled w g n timer) := by
  unfold State.serveStalled
  split
  · exact expireStall_joinsOrder s w g
  · exact serveAndGoOn_joinsOrder s w g n

theorem expireResponse_sameOrders (s : State) (e : Tag) : SameOrders s (s.expireResponse e) := by
  refine ⟨fun src => by simp [State.expireResponse], fun v => ?_⟩
  rw [State.expireResponse_track]
  split
  · rename_i he
    rw [he]
  · rfl

theorem settleResponse_sameOrders (s : State) (e : Tag) : SameOrders s (s.settleResponse e) := by
  unfold State.settleResponse
  split
  · exact expireResponse_sameOrders s e
  · exact SameOrders.refl s

theorem foldl_settleResponse_sameOrders (tags : List Tag) (s : State) :
    SameOrders s (tags.foldl State.settleResponse s) := by
  induction tags generalizing s with
  | nil => exact SameOrders.refl s
  | cons e rest ih => exact (settleResponse_sameOrders s e).trans (ih _)

theorem settleStall_ordersGrow (s : State) : OrdersGrow s s.settleStall := by
  unfold State.settleStall
  split
  · rename_i w g _ hstall
    exact .inr ⟨w, work_of_stall hstall, expireStall_joinsOrder s w g⟩
  all_goals exact ordersGrow_refl s

/-- Of the expiries, only that of the stall puts an entry into a list. -/
theorem settleTimers_ordersGrow (s : State) : OrdersGrow s s.settleTimers :=
  (settleStall_ordersGrow _).of_same (foldl_settleResponse_sameOrders _ s) (by rw [State.foldl_settleResponse_frame])

theorem tick_sameOrders (s : State) : SameOrders s s.tick := by
  refine ⟨fun _ => rfl, fun v => ?_⟩
  rw [track_tick, TrackerEntry.tick]
  split <;> rfl

theorem completeByResponse_sameOrders (s : State) (e : Tag) (status : MemStatus) (beats : List Beat) :
    SameOrders s (s.completeByResponse e status beats) := by
  unfold State.completeByResponse
  dsimp only
  generalize hx : s.closeLink _ _ = x
  have hclosed : SameOrders s x := sameOrders_of_tracker (by rw [← hx, State.closeLink_tracker])
  refine hclosed.trans (.trans (setTrack_sameOrders ?_) (sameOrders_of_tracker (noticeFault_tracker _ status)))
  exact (hclosed.source e).symm

/-- A memory response moves no entry in or out of a list, whichever way it is taken (R134, R138, R139). -/
theorem takeResponse_sameOrders (s : State) (e : Tag) (status : MemStatus) (beats : List Beat) :
    SameOrders s (s.takeResponse e status beats) := by
  have hstray : SameOrders s (s.count .strayResponses) := sameOrders_of_tracker rfl
  unfold State.takeResponse
  split
  · split
    · exact completeByResponse_sameOrders s e status beats
    · exact hstray
  · split
    · exact sameOrders_of_setTrack (e := e) rfl rfl rfl
    · exact hstray
  · exact sameOrders_of_setTrack (e := e) rfl rfl rfl
  · exact hstray
  · exact hstray

theorem endStallByMode_ordersGrow (s : State) : OrdersGrow s s.endStallByMode := by
  unfold State.endStallByMode
  split
  · exact ordersGrow_refl s
  · rename_i w g n timer hstall
    refine .inr ⟨w, work_of_stall hstall, ?_⟩
    split
    · exact expireStall_joinsOrder s w g
    · exact (forward_joinsOrder s w).trans_same (sameOrders_of_tracker (State.afterStop_tracker _ w g))

/-! ### The rows of the Classifier's work (R24 to R30, R60, R85) -/

/-- A miss counted before the forward touches no list (R20). -/
theorem missAndForward_joinsOrder (s : State) (w : Work) (g : Governor) :
    JoinsOrder w.entry s ((s.miss g.index).forwardAndGoOn w g) :=
  (forwardAndGoOn_joinsOrder _ w g).of_same (sameOrders_of_tracker (s.miss_tracker g.index))

theorem captureToSlot_ordersGrow (hw : s.work = some w) : OrdersGrow s (s.captureToSlot w g) := by
  cases hdue : s.recordDue with
  | false =>
    rw [captureToSlot_of_not_due hdue]
    exact .inr ⟨w, hw, forwardAndGoOn_joinsOrder s w g⟩
  | true =>
    cases ho : (s.slot (captureSlotOf g.image)).owner with
    | tool =>
      rw [captureToSlot_of_tool hdue ho]
      exact .inr ⟨w, hw, missAndForward_joinsOrder s w g⟩
    | unit =>
      rw [captureToSlot_of_unit hdue ho]
      exact ordersGrow_of_tracker (s.createRecord_tracker _ _ _)

/-- The link of a queue record, placed after changes outside the Tracker, touches no list (R85). -/
theorem linkQueueRecord_sameOrders {n : SlotId} {sequence : BitVec 16} (h : x.tracker = s.tracker) :
    SameOrders s (x.linkQueueRecord w g n sequence) :=
  (sameOrders_of_tracker h).trans (sameOrders_of_setTrack (e := w.entry) rfl rfl rfl)

theorem enqueue_sameOrders (s : State) (w : Work) (g : Governor) : SameOrders s (s.enqueue w g) := by
  unfold State.enqueue
  refine linkQueueRecord_sameOrders ?_
  split <;> simp

theorem replaceOldest_sameOrders (s : State) (w : Work) (g : Governor) : SameOrders s (s.replaceOldest w g) := by
  unfold State.replaceOldest
  exact linkQueueRecord_sameOrders (by simp)

theorem offerToQueue_ordersGrow (hw : s.work = some w) : OrdersGrow s (s.offerToQueue w g) := by
  unfold State.offerToQueue
  split
  · exact .inl (enqueue_sameOrders s w g)
  · split
    · exact .inr ⟨w, hw, (forwardAndGoOn_joinsOrder _ w g).of_same (sameOrders_of_tracker rfl)⟩
    · exact .inl (replaceOldest_sameOrders s w g)

theorem captureToQueue_ordersGrow (hw : s.work = some w) : OrdersGrow s (s.captureToQueue w g) := by
  have hforward : OrdersGrow s (s.forwardAndGoOn w g) := .inr ⟨w, hw, forwardAndGoOn_joinsOrder s w g⟩
  unfold State.captureToQueue
  split
  · exact hforward
  · split
    · exact offerToQueue_ordersGrow hw
    · exact hforward

theorem overlay_ordersGrow (hw : s.work = some w) : OrdersGrow s (s.overlay w g) := by
  unfold State.overlay
  split
  · exact .inr ⟨w, hw, forwardAndGoOn_joinsOrder s w g⟩
  · split
    · exact .inr ⟨w, hw, serveAndGoOn_joinsOrder s w g _⟩
    · unfold State.fallBack
      split
      · exact ordersGrow_of_tracker rfl
      · exact .inr ⟨w, hw, missAndForward_joinsOrder s w g⟩

/-- An action row does its action in ACTIVE and forwards in another mode (R26). -/
theorem actionRow_ordersGrow (hw : s.work = some w) (hx : OrdersGrow s x) :
    OrdersGrow s (if s.mode = .active then x else s.forwardAndGoOn w g) := by
  split
  · exact hx
  · exact .inr ⟨w, hw, forwardAndGoOn_joinsOrder s w g⟩

theorem classify_ordersGrow (h : exec .classify s = .next t) : OrdersGrow s t := by
  obtain rfl | ⟨w, hw, _, rfl | ⟨_, i, _, rfl⟩⟩ := exec_classify_cases h
  · exact ordersGrow_refl _
  · exact .inr ⟨w, hw, (forward_joinsOrder s w).trans_same (sameOrders_of_tracker rfl)⟩
  · exact ordersGrow_of_tracker rfl

theorem historyAppend_ordersGrow (h : exec .historyAppend s = .next t) : OrdersGrow s t := by
  obtain rfl | ⟨w, g, note, _, _, rfl⟩ := exec_historyAppend_cases h
  · exact ordersGrow_refl _
  · exact .inl ((sameOrders_of_tracker (s.appendNote_tracker note)).trans
      (sameOrders_of_setTrack (e := w.entry) rfl rfl rfl))

theorem recordNotice_ordersGrow (h : exec .recordNotice s = .next t) : OrdersGrow s t := by
  obtain rfl | ⟨w, g, hw, _, rfl⟩ := exec_recordNotice_cases h
  · exact ordersGrow_refl _
  · exact .inr ⟨w, hw, (forwardAndGoOn_joinsOrder _ w g).of_same (sameOrders_of_tracker s.takeNotice_tracker)⟩

/-! ### The events of memory and of time, and the tool commands that end a stall -/

theorem mportSend_ordersGrow (h : exec .mportSend s = .next t) : OrdersGrow s t := by
  replace h := Host.Outcome.next.inj h
  subst h
  split
  · exact ordersGrow_refl s
  · rename_i item rest _
    exact .inl (sameOrders_of_setTrack (e := item.entry) rfl rfl rfl)

theorem memoryResponse_ordersGrow {status : MemStatus} {beats : List Beat}
    (h : exec (.memoryResponse e status beats) s = .next t) : OrdersGrow s t := by
  replace h := Host.Outcome.next.inj h
  subst h
  split
  · exact ordersGrow_refl s
  · exact .inl ((settleResponse_sameOrders s e).trans (takeResponse_sameOrders _ e status beats))

theorem tick_ordersGrow (h : exec .tick s = .next t) : OrdersGrow s t := by
  replace h := Host.Outcome.next.inj h
  subst h
  split
  · exact ordersGrow_refl s
  · split
    · exact ordersGrow_of_tracker rfl
    · exact (settleTimers_ordersGrow s).trans_same (tick_sameOrders _)

theorem setMode_ordersGrow (mode : Byte) (s : State) : OrdersGrow s (setMode mode s).1 := by
  have hleave : ∀ m, OrdersGrow s (s.setMode m).endStallByMode := fun m =>
    (endStallByMode_ordersGrow (s.setMode m)).of_same (sameOrders_of_tracker rfl) rfl
  unfold setMode
  split
  · unfold modeBypass
    split
    · exact ordersGrow_refl s
    · exact ordersGrow_refl s
    · split
      · exact hleave .draining
      · exact hleave .bypass
  · exact ordersGrow_of_tracker rfl
  · exact ordersGrow_refl s

theorem releaseSlot_ordersGrow (n : SlotId) (s : State) : OrdersGrow s (releaseSlot n s).1 := by
  unfold releaseSlot
  split
  · exact ordersGrow_refl s
  · dsimp only
    split
    · exact ordersGrow_of_tracker rfl
    · rename_i w g slot timer hstall
      split
      · exact .inr ⟨w, work_of_stall (s := s) hstall,
          (serveStalled_joinsOrder _ w g n timer).of_same (sameOrders_of_tracker rfl)⟩
      · exact ordersGrow_of_tracker rfl

theorem rederiveGroup_ordersGrow (s : State) (group : Fin 4) : OrdersGrow s (s.rederiveGroup group) := by
  unfold State.rederiveGroup
  split
  · exact ordersGrow_refl s
  · rename_i w g n timer hstall
    split
    · unfold State.rederive
      split
      · exact .inr ⟨w, work_of_stall hstall, serveStalled_joinsOrder s w g _ timer⟩
      · exact ordersGrow_of_tracker rfl
    · exact ordersGrow_refl s

theorem switchBank_ordersGrow (group bank : Byte) (s : State) : OrdersGrow s (switchBank group bank s).1 := by
  unfold switchBank
  split
  · split
    · unfold setBank
      split
      · exact ordersGrow_refl s
      · exact (rederiveGroup_ordersGrow _ _).of_same (sameOrders_of_tracker rfl) rfl
    · exact ordersGrow_refl s
  · exact ordersGrow_refl s

theorem clearUnit_ordersGrow (s : State) : OrdersGrow s (clearUnit s).1 :=
  clearUnit_keeps (ordersGrow_refl s) (.inl ⟨fun _ => rfl, fun _ => rfl⟩)

/-- The taking of a command frame adds to a list no more than the command's run does. -/
theorem linkExecute_ordersGrow (code seq : Byte) (run : State → State × Answer) (hr : OrdersGrow s (run s).1) :
    OrdersGrow s (linkExecute code seq run s) :=
  linkExecute_keeps (inv := OrdersGrow s) (fun _ _ hx => hx.trans_same (sameOrders_of_tracker rfl)) code seq run
    (ordersGrow_refl s) hr

end Orders

/-! ### Every command -/

/-- The commands that neither reset the order lists, nor put a request rejected at acceptance into one, nor take a head
off. -/
def OnlyGrows : Instr → Prop
  | .porst | .srst | .requestAccept .. | .arbiterGrant => False
  | _ => True

theorem exec_ordersGrow {c : Instr} {s t : State} (hc : OnlyGrows c) (h : exec c s = .next t) : OrdersGrow s t := by
  have hrest : LeavesPath c → OrdersGrow s t := fun hl => ordersGrow_of_tracker (exec_samePath hl h).tracker
  cases c with
  | porst | srst | requestAccept | arbiterGrant => exact hc.elim
  | classify => exact classify_ordersGrow h
  | startTrigger => rw [execStartTrigger_frame h]; exact ordersGrow_of_tracker rfl
  | watchAction =>
    obtain rfl | ⟨w, g, hw, _, _, rfl⟩ := exec_watchAction_cases h
    · exact ordersGrow_refl _
    · exact .inr ⟨w, hw, forwardAndGoOn_joinsOrder s w g⟩
  | captureSlotAction =>
    obtain rfl | ⟨w, g, hw, _, _, rfl⟩ := exec_captureSlotAction_cases h
    · exact ordersGrow_refl _
    · exact actionRow_ordersGrow hw (captureToSlot_ordersGrow hw)
  | captureQueueAction =>
    obtain rfl | ⟨w, g, hw, _, _, rfl⟩ := exec_captureQueueAction_cases h
    · exact ordersGrow_refl _
    · exact actionRow_ordersGrow hw (captureToQueue_ordersGrow hw)
  | overlayAction =>
    obtain rfl | ⟨w, g, hw, _, _, rfl⟩ := exec_overlayAction_cases h
    · exact ordersGrow_refl _
    · exact actionRow_ordersGrow hw (overlay_ordersGrow hw)
  | historyAppend => exact historyAppend_ordersGrow h
  | recordNotice => exact recordNotice_ordersGrow h
  | stopTrigger => rw [execStopTrigger_frame h]; exact ordersGrow_of_tracker rfl
  | oneShotRetire => rw [execOneShotRetire_frame h]; exact ordersGrow_of_tracker rfl
  | mportSend => exact mportSend_ordersGrow h
  | memoryResponse e status beats => exact memoryResponse_ordersGrow h
  | tick => exact tick_ordersGrow h
  | responseLimitExpiry e => cases h; exact .inl (settleResponse_sameOrders s e)
  | stallLimitExpiry => cases h; exact settleStall_ordersGrow s
  | clearUnit seq => cases h; exact linkExecute_ordersGrow _ _ _ (clearUnit_ordersGrow s)
  | enableEntry seq index => rw [execEnableEntry_frame seq index h]; exact ordersGrow_of_tracker rfl
  | setMode seq mode => cases h; exact linkExecute_ordersGrow _ _ _ (setMode_ordersGrow mode s)
  | releaseSlot seq slot =>
    cases h
    exact linkExecute_ordersGrow _ _ _
      (withSlot_keeps (inv := OrdersGrow s) _ _ (ordersGrow_refl s) fun n => releaseSlot_ordersGrow n s)
  | switchBank seq group bank => cases h; exact linkExecute_ordersGrow _ _ _ (switchBank_ordersGrow group bank s)
  | sessionArm seq count => rw [execSessionArm_frame seq count h]; exact ordersGrow_of_tracker rfl
  | sessionRun seq count => rw [execSessionRun_frame seq count h]; exact ordersGrow_of_tracker rfl
  | setLimits seq response stall =>
    cases h
    exact linkExecute_ordersGrow _ _ _ (.inl ⟨fun _ => rfl, fun _ => rfl⟩)
  | _ => exact hrest trivial

/-- SRST empties every order list (R143). -/
theorem exec_srst_order {s t : State} (h : exec .srst s = .next t) (src : SourceId) : t.order src = [] := by
  rw [exec_srst_eq] at h
  replace h := Host.Outcome.next.inj h
  subst h
  generalize s.settleTimers = x
  show x.srstPath.completeDrain.order src = []
  rw [State.completeDrain_order, State.order, srstPath_tracker]
  simp [Tracker.srst]

/-- Acceptance touches no list, or a request that is rejected joins that of its source (R128, R129). -/
theorem exec_requestAccept_order {s t : State} {r : Request} (h : exec (.requestAccept r) s = .next t) :
    (∀ src, t.order src = s.order src) ∨ ∃ e, s.lowestFree = some e ∧ acceptable r = false
      ∧ (t.track e).source = r.source
      ∧ ∀ src, t.order src = if r.source = src then s.order src ++ [e] else s.order src := by
  by_cases hp : s.portOpen = true
  · cases hfree : s.lowestFree with
    | none =>
      rw [exec_requestAccept_of_full hfree] at h
      cases h
      exact .inl fun _ => rfl
    | some e =>
      rw [exec_requestAccept_of_free hp hfree] at h
      cases h
      split
      · exact .inl fun _ => rfl
      · rename_i hfail
        exact .inr ⟨e, rfl, Bool.eq_false_iff.mpr hfail, by simp [State.acceptRejected],
          fun src => order_setOrder_append _ r.source src e⟩
  · rw [exec_requestAccept_of_closed hp] at h
    cases h
    exact .inl fun _ => rfl

/-! ### The responses sent (R137, R140) -/

/-- A grant sends nothing, or releases the HELD head of a list (R137). -/
theorem exec_arbiterGrant_cases {s t : State} (h : exec .arbiterGrant s = .next t) :
    t = s ∨ ∃ src e rest, s.order src = e :: rest ∧ (s.track e).state = .held ∧ t = s.release src e := by
  replace h := Host.Outcome.next.inj h
  subst h
  split
  · exact .inl rfl
  · rename_i src _
    split
    · exact .inl rfl
    · rename_i e hready
      obtain ⟨⟨rest, ho⟩, hheld⟩ := (readyHead_eq_some s src e).mp hready
      exact .inr ⟨src, e, rest, ho, hheld, rfl⟩

theorem release_order (s : State) (src : SourceId) (e : Tag) (v : SourceId) :
    (s.release src e).order v = if src = v then (s.order src).drop 1 else s.order v := by
  rw [release_eq, State.slotServedLeft_order]
  exact State.order_setOrder _ src v _

theorem release_sportResponse (s : State) (src : SourceId) (e : Tag) :
    (s.release src e).sportResponse = (s.track e).buffer.map fun b =>
      { source := (s.track e).source, status := b.status, beats := b.beats } := by
  rw [release_eq, State.slotServedLeft_sportResponse]
  rfl

/-- The commands that leave the response last sent as it is. -/
def SendsNothing : Instr → Prop
  | .porst | .arbiterGrant => False
  | _ => True

theorem exec_sportResponse {c : Instr} {s t : State} (hc : SendsNothing c) (h : exec c s = .next t) :
    t.sportResponse = s.sportResponse := by
  cases c with
  | porst | arbiterGrant => exact hc.elim
  | porstRelease low => rw [execPorstRelease_frame low h]
  | srst => rw [execSrst_frame h]
  | srstRelease => rw [execSrstRelease_frame h]
  | requestAccept r => rw [execRequestAccept_frame r h]
  | classify => rw [execClassify_frame h]
  | startTrigger => rw [execStartTrigger_frame h]
  | watchAction => rw [execWatchAction_frame h]
  | captureSlotAction => rw [execCaptureSlotAction_frame h]
  | captureQueueAction => rw [execCaptureQueueAction_frame h]
  | overlayAction => rw [execOverlayAction_frame h]
  | historyAppend => rw [execHistoryAppend_frame h]
  | recordNotice => rw [execRecordNotice_frame h]
  | stopTrigger => rw [execStopTrigger_frame h]
  | oneShotRetire => rw [execOneShotRetire_frame h]
  | mportSend => rw [execMportSend_frame h]
  | memoryResponse e status beats => rw [execMemoryResponse_frame e status beats h]
  | tick => rw [execTick_frame h]
  | responseLimitExpiry e => rw [execResponseLimitExpiry_frame e h]
  | stallLimitExpiry => rw [execStallLimitExpiry_frame h]
  | linkFault period => rw [execLinkFault_frame period h]
  | resync => rw [execResync_frame h]
  | duplicate code seq => rw [execDuplicate_frame code seq h]
  | unknownCommand code seq => rw [execUnknownCommand_frame code seq h]
  | nop seq => rw [execNop_frame seq h]
  | getStatus seq => rw [execGetStatus_frame seq h]
  | clearUnit seq => rw [execClearUnit_frame seq h]
  | writeEntry seq index image => rw [execWriteEntry_frame seq index image h]
  | readEntry seq index => rw [execReadEntry_frame seq index h]
  | enableEntry seq index => rw [execEnableEntry_frame seq index h]
  | disableEntry seq index => rw [execDisableEntry_frame seq index h]
  | clearEntryCounts seq index => rw [execClearEntryCounts_frame seq index h]
  | setMode seq mode => rw [execSetMode_frame seq mode h]
  | takeSlot seq slot => rw [execTakeSlot_frame seq slot h]
  | releaseSlot seq slot => rw [execReleaseSlot_frame seq slot h]
  | writeSlot seq slot offset length data => rw [execWriteSlot_frame seq slot offset length data h]
  | readSlot seq slot => rw [execReadSlot_frame seq slot h]
  | ackSlot seq slot sequence => rw [execAckSlot_frame seq slot sequence h]
  | readHistory seq => rw [execReadHistory_frame seq h]
  | configQueue seq first count mode watermark => rw [execConfigQueue_frame seq first count mode watermark h]
  | popQueue seq => rw [execPopQueue_frame seq h]
  | switchBank seq group bank => rw [execSwitchBank_frame seq group bank h]
  | sessionArm seq count => rw [execSessionArm_frame seq count h]
  | sessionRun seq count => rw [execSessionRun_frame seq count h]
  | sessionHalt seq => rw [execSessionHalt_frame seq h]
  | sessionClear seq => rw [execSessionClear_frame seq h]
  | setLimits seq response stall => rw [execSetLimits_frame seq response stall h]
  | setTimebase seq prescaler load value => rw [execSetTimebase_frame seq prescaler load value h]
  | readCounters seq => rw [execReadCounters_frame seq h]
  | clearCounters seq set => rw [execClearCounters_frame seq set h]
  | setAlertEnable seq set => rw [execSetAlertEnable_frame seq set h]
  | ackAlert seq set => rw [execAckAlert_frame seq set h]

/-- Settles O57: PORST, SRST, acceptance and the grant by what each does to the lists; every other command leaves them or
lets the entry under classification join one, and sends nothing. -/
theorem orderListsAreFirstInFirstOut : Obligations.OrderListsAreFirstInFirstOut := by
  intro c s t h sends hsends
  have hkept : SendsNothing c → t.sportResponse = s.sportResponse := fun hc => exec_sportResponse hc h
  have hgrows : OnlyGrows c → OrdersGrow s t := fun hc => exec_ordersGrow hc h
  cases c with
  | porst =>
    cases h
    exact ⟨fun src => .inr (.inr (.inr ⟨.inr rfl, reset_order src⟩)), .inr (.inr ⟨rfl, rfl⟩)⟩
  | srst =>
    exact ⟨fun src => .inr (.inr (.inr ⟨.inl rfl, exec_srst_order h src⟩)), .inl (hkept trivial)⟩
  | requestAccept r =>
    refine ⟨fun src => ?_, .inl (hkept trivial)⟩
    obtain hsame | ⟨e, hfree, hfail, hsource, horder⟩ := exec_requestAccept_order h
    · exact .inl (hsame src)
    · have ho := horder src
      split at ho
      · rename_i hsrc
        exact .inr (.inl ⟨e, ho, hsource.trans hsrc, .inr ⟨r, rfl, hfail, hsrc, hfree⟩⟩)
      · exact .inl ho
  | arbiterGrant =>
    obtain rfl | ⟨granted, e, rest, ho, hheld, rfl⟩ := exec_arbiterGrant_cases h
    · exact ⟨fun _ => .inl rfl, .inl rfl⟩
    · have hsent : sends granted e := (hsends granted e).mpr
        ⟨rfl, by rw [release_order, if_pos rfl, ho]; rfl, hheld, release_sportResponse s granted e⟩
      refine ⟨fun src => ?_, .inr (.inl ⟨granted, e, hsent⟩)⟩
      by_cases hsrc : granted = src
      · exact .inr (.inr (.inl ⟨e, hsrc ▸ hsent⟩))
      · exact .inl (by rw [release_order, if_neg hsrc])
  | _ =>
    refine ⟨fun src => ?_, .inl (hkept trivial)⟩
    obtain hsame | ⟨w, hw, hjoins⟩ := hgrows trivial
    · exact .inl (hsame.order src)
    · have ho := hjoins.order src
      split at ho
      · rename_i hsrc
        exact .inr (.inl ⟨w.entry, ho, (hjoins.source w.entry).trans hsrc, .inl ⟨w, hw, rfl⟩⟩)
      · exact .inl ho

end Sys2Proof.Machine
end

section
/-! PROOFS. SET_LIMITS, SET_TIMEBASE and the M-port (O31, O47). -/

namespace Sys2Proof.Machine

/-! ### SET_TIMEBASE (R165) -/

section SetTimebase
variable {s : State} {prescaler : HalfWord} {load : Byte} {value : Stamp}

theorem loadOf_of_ge (h : 2 ≤ load.toNat) : loadOf load value = none := by
  unfold loadOf
  split
  · omega
  · omega
  · rfl

theorem loadOf_of_le (h : load.toNat ≤ 1) :
    loadOf load value = some (if load.toNat = 1 then some value else none) := by
  obtain hzero | hone : load.toNat = 0 ∨ load.toNat = 1 := by omega
  · rw [loadOf, hzero]
    rfl
  · rw [loadOf, hone]
    rfl

theorem setTimebase_of_outside (h : prescaler.toNat = 0 ∨ prescaler.toNat > 256 ∨ load.toNat ≥ 2) :
    setTimebase prescaler load value s = (s, badArg .field) := by
  unfold setTimebase
  split
  · rw [loadOf_of_ge (by omega)]
  · rfl

theorem setTimebase_of_inside (hlow : 1 ≤ prescaler.toNat) (hhigh : prescaler.toNat ≤ 256) (hload : load.toNat ≤ 1) :
    setTimebase prescaler load value s
      = ({ s with
            timeBase := { s.timeBase with
              waiting := some
                { prescaler := prescaler.toNat, load := if load.toNat = 1 then some value else none } } },
          answer .ok) := by
  rw [setTimebase, if_pos ⟨hlow, hhigh⟩, loadOf_of_le hload]

end SetTimebase

/-- Settles O31: SET_LIMITS checks nothing, SET_TIMEBASE the ranges of its prescaler and its load byte. -/
theorem limitAndTimebaseCommandsSetTheirValues : Obligations.LimitAndTimebaseCommandsSetTheirValues := by
  refine ⟨fun s seq response stall hx => ?_,
    fun s seq prescaler load value hx => ⟨fun h => ?_, fun hlow hhigh hload settings hsettings => ?_⟩⟩
  · exact toolCommand_of_eq (run := setLimits response stall) hx rfl
  · exact toolCommand_of_eq hx (setTimebase_of_outside h)
  · subst hsettings
    exact toolCommand_of_eq hx (setTimebase_of_inside hlow hhigh hload)

/-! ### MPORT_SEND (R133) -/

theorem exec_mportSend_of_nil {s : State} (h : s.tracker.sendList = []) : exec .mportSend s = .next s := by
  simp only [exec, execMportSend, h]

theorem exec_mportSend_of_cons {s : State} {item : SendItem} {rest : List SendItem}
    (h : s.tracker.sendList = item :: rest) : exec .mportSend s = .next (s.passOldest item rest) := by
  simp only [exec, execMportSend, h]

/-- Settles O47: by the send list. -/
theorem mportSendPassesTheOldestRequest : Obligations.MportSendPassesTheOldestRequest :=
  fun _ => ⟨exec_mportSend_of_nil, fun _ _ => exec_mportSend_of_cons⟩

end Sys2Proof.Machine
end

section
/-! PROOFS. GET_STATUS (O33). -/

namespace Sys2Proof.Machine

/-! ### The counts of the Tracker (R130) -/

theorem entries_toList (s : State) : s.tracker.entries.toList = (List.finRange 16).map s.track := by
  apply List.ext_getElem <;> simp [State.track]

theorem trackCount_eq (s : State) (x : TrackState) :
    s.trackCount x = ((List.finRange 16).filter fun t => (s.track t).state = x).length := by
  rw [State.trackCount, entries_toList, List.countP_map, List.countP_eq_length_filter]
  rfl

theorem trackCount_le (s : State) (x : TrackState) : s.trackCount x ≤ 16 := by
  rw [trackCount_eq]
  exact (List.length_filter_le _ _).trans (by simp)

/-! ### The items of the report (R159, 11.9) -/

section Report
variable (s : State)

theorem length_stallBytes : s.stallBytes.length = 2 := by
  unfold State.stallBytes
  split <;> rfl

/-- The payload of GET_STATUS up to its last item, place by place. -/
def State.statusItems (s : State) : List Byte :=
  [s.mode.code, s.stallBytes.getD 0 0, s.stallBytes.getD 1 0, s.session.state.code, s.session.remaining,
    BitVec.ofNat 8 s.queue.first, BitVec.ofNat 8 s.queue.count, s.queue.mode.code, BitVec.ofNat 8 s.queue.watermark,
    BitVec.ofNat 8 s.queue.occupancy, BitVec.ofNat 8 s.history.length, BitVec.ofNat 8 (s.trackCount .free),
    BitVec.ofNat 8 (s.trackCount .orphaned), banksByte s.banks,
    byteAt s.tracker.responseLimit 0, byteAt s.tracker.responseLimit 1,
    byteAt s.tracker.stallLimit 0, byteAt s.tracker.stallLimit 1,
    byteAt s.timeBase.value 0, byteAt s.timeBase.value 1, byteAt s.timeBase.value 2, byteAt s.timeBase.value 3,
    byteAt (BitVec.ofNat 16 s.timeBase.prescaler) 0, byteAt (BitVec.ofNat 16 s.timeBase.prescaler) 1,
    byteAt (s.alerts.pendingSet.setWidth 16) 0, byteAt (s.alerts.pendingSet.setWidth 16) 1,
    byteAt (s.alerts.enableSet.setWidth 16) 0, byteAt (s.alerts.enableSet.setWidth 16) 1,
    byteAt s.captureSeq 0, byteAt s.captureSeq 1]

theorem statusBytes_eq : s.statusBytes = s.statusItems := by
  obtain ⟨flag, entry, h⟩ := List.length_eq_two.mp (length_stallBytes s)
  rw [State.statusBytes, State.statusItems, h]
  rfl

/-- The payload of GET_STATUS. -/
def State.statusPayload (s : State) : Payload := payloadOf s.statusBytes

theorem getElem_status {k : Nat} (h : k < 30) : s.statusPayload[k] = s.statusItems[k]'h := by
  rw [State.statusPayload, getElem_payloadOf _ (by omega), statusBytes_eq]
  exact List.getD_eq_getElem _ _ h

/-- Beyond the items the payload is zero (11.9). -/
theorem getElem_status_rest (i : Fin 88) (h : 30 ≤ i.val) : s.statusPayload[i] = 0 := by
  rw [Fin.getElem_fin, State.statusPayload, getElem_payloadOf _ i.isLt, statusBytes_eq]
  exact List.getD_eq_default _ _ h

theorem toNat_byteOf {n : Nat} (h : n < 256) : (BitVec.ofNat 8 n).toNat = n := by
  rw [BitVec.toNat_ofNat]
  exact Nat.mod_eq_of_lt h

theorem status_mode : s.statusPayload[0] = s.mode.code := getElem_status s (k := 0) (by decide)

theorem status_stall_of_none (h : s.stall = none) : s.statusPayload[1] = 0 ∧ s.statusPayload[2] = 0 := by
  rw [getElem_status s (k := 1) (by decide), getElem_status s (k := 2) (by decide)]
  show s.stallBytes.getD 0 0 = 0 ∧ s.stallBytes.getD 1 0 = 0
  rw [State.stallBytes, h]
  exact ⟨rfl, rfl⟩

theorem status_stall_of_some {w : Work} {g : Governor} {n : SlotId} {timer : LimitTimer}
    (h : s.stall = some (w, g, n, timer)) : s.statusPayload[1] = 1 ∧ s.statusPayload[2].toNat = g.index.val := by
  rw [getElem_status s (k := 1) (by decide), getElem_status s (k := 2) (by decide)]
  show s.stallBytes.getD 0 0 = 1 ∧ (s.stallBytes.getD 1 0).toNat = g.index.val
  rw [State.stallBytes, h]
  exact ⟨rfl, toNat_byteOf (by omega)⟩

theorem status_session :
    s.statusPayload[3] = s.session.state.code ∧ s.statusPayload[4] = s.session.remaining :=
  ⟨getElem_status s (k := 3) (by decide), getElem_status s (k := 4) (by decide)⟩

/-- The fields of a legal queue fit their bytes (R80, R81). -/
theorem queueLegal_lt {s : State} (h : s.QueueLegal) : s.queue.first < 256 ∧ s.queue.count < 256
    ∧ s.queue.watermark < 256 ∧ s.queue.occupancy < 256 := by
  obtain h | ⟨_, hcount, hrun, _, hwatermark, _, hoccupancy⟩ := h
  · rw [h]
    decide
  · omega

theorem status_queue (h : s.QueueLegal) :
    s.statusPayload[5].toNat = s.queue.first ∧ s.statusPayload[6].toNat = s.queue.count
      ∧ s.statusPayload[7] = s.queue.mode.code ∧ s.statusPayload[8].toNat = s.queue.watermark
      ∧ s.statusPayload[9].toNat = s.queue.occupancy := by
  obtain ⟨hfirst, hcount, hwatermark, hoccupancy⟩ := queueLegal_lt h
  rw [getElem_status s (k := 5) (by decide), getElem_status s (k := 6) (by decide),
    getElem_status s (k := 8) (by decide), getElem_status s (k := 9) (by decide)]
  exact ⟨toNat_byteOf hfirst, toNat_byteOf hcount, getElem_status s (k := 7) (by decide), toNat_byteOf hwatermark,
    toNat_byteOf hoccupancy⟩

theorem status_history (h : s.HistoryBounded) : s.statusPayload[10].toNat = s.history.length := by
  unfold State.HistoryBounded at h
  rw [getElem_status s (k := 10) (by decide)]
  exact toNat_byteOf (by omega)

theorem status_free : s.statusPayload[11].toNat = s.trackCount .free := by
  have := trackCount_le s .free
  rw [getElem_status s (k := 11) (by decide)]
  exact toNat_byteOf (by omega)

theorem status_orphaned : s.statusPayload[12].toNat = s.trackCount .orphaned := by
  have := trackCount_le s .orphaned
  rw [getElem_status s (k := 12) (by decide)]
  exact toNat_byteOf (by omega)

theorem isB_eq (bank : Bank) : bank.isB = decide (bank = .b) := by cases bank <;> rfl

theorem status_banks (k : Fin 8) :
    s.statusPayload[13].getLsbD k.val = if h : k.val < 4 then decide (s.banks[k.val] = .b) else false := by
  rw [getElem_status s (k := 13) (by decide)]
  refine (getLsbD_byteOfBits (fun i => if h : i < 4 then s.banks[i].isB else false) k).trans ?_
  simp only [isB_eq]

theorem status_limits : s.statusPayload[15] ++ s.statusPayload[14] = s.tracker.responseLimit
    ∧ s.statusPayload[17] ++ s.statusPayload[16] = s.tracker.stallLimit := by
  rw [getElem_status s (k := 14) (by decide), getElem_status s (k := 15) (by decide),
    getElem_status s (k := 16) (by decide), getElem_status s (k := 17) (by decide)]
  exact ⟨byteAt_append_two _, byteAt_append_two _⟩

theorem status_value : s.statusPayload[21] ++ s.statusPayload[20] ++ s.statusPayload[19] ++ s.statusPayload[18]
    = s.timeBase.value := by
  rw [getElem_status s (k := 18) (by decide), getElem_status s (k := 19) (by decide),
    getElem_status s (k := 20) (by decide), getElem_status s (k := 21) (by decide)]
  exact byteAt_append_four _

theorem status_prescaler (h : s.TimeBaseLegal) :
    (s.statusPayload[23] ++ s.statusPayload[22]).toNat = s.timeBase.prescaler := by
  obtain ⟨_, hhigh, _⟩ := h
  have hword : s.statusPayload[23] ++ s.statusPayload[22] = BitVec.ofNat 16 s.timeBase.prescaler := by
    rw [getElem_status s (k := 22) (by decide), getElem_status s (k := 23) (by decide)]
    exact byteAt_append_two _
  rw [hword, BitVec.toNat_ofNat]
  omega

theorem status_alerts : s.statusPayload[25] ++ s.statusPayload[24] = s.alerts.pendingSet.setWidth 16
    ∧ s.statusPayload[27] ++ s.statusPayload[26] = s.alerts.enableSet.setWidth 16 := by
  rw [getElem_status s (k := 24) (by decide), getElem_status s (k := 25) (by decide),
    getElem_status s (k := 26) (by decide), getElem_status s (k := 27) (by decide)]
  exact ⟨byteAt_append_two _, byteAt_append_two _⟩

theorem status_captureSeq : s.statusPayload[29] ++ s.statusPayload[28] = s.captureSeq := by
  rw [getElem_status s (k := 28) (by decide), getElem_status s (k := 29) (by decide)]
  exact byteAt_append_two _

end Report

/-- Settles O33: each item by its place, those of a number by the range that makes it fit. -/
theorem getStatusReportsEveryItem : Obligations.GetStatusReportsEveryItem := by
  intro s seq hx
  obtain ⟨hsession, hremaining⟩ := status_session s
  obtain ⟨hresponse, hstall⟩ := status_limits s
  obtain ⟨hpending, henable⟩ := status_alerts s
  refine ⟨s.statusPayload, toolCommand_of_eq (run := getStatus) hx rfl, ?_, status_stall_of_none s,
    fun _ _ _ _ => status_stall_of_some s, ?_, hremaining, fun hq => ?_, status_history s, ?_, ?_, status_banks s,
    hresponse, hstall, status_value s, status_prescaler s, hpending, henable, status_captureSeq s,
    getElem_status_rest s⟩
  · rw [status_mode]
    cases s.mode <;> rfl
  · rw [hsession]
    cases s.session.state <;> rfl
  · obtain ⟨hfirst, hcount, hmode, hwatermark, hoccupancy⟩ := status_queue s hq
    refine ⟨hfirst, hcount, ?_, hwatermark, hoccupancy⟩
    rw [hmode]
    cases s.queue.mode <;> rfl
  · rw [status_free, trackCount_eq]
  · rw [status_orphaned, trackCount_eq]

end Sys2Proof.Machine
end

section
/-! PROOFS. The wire form of the Tool Link: the bits of a frame, its CRC, and the period that carries it (O4, O5, O7). -/

namespace Sys2Proof

/-! ### Bits of a run of bytes (R145) -/

section Bits

theorem length_bitsOfByte (b : Byte) : (bitsOfByte b).length = 8 := rfl

/-- Bit `n` of a byte on the wire, most significant first. -/
theorem getElem?_bitsOfByte (b : Byte) {n : Nat} (h : n < 8) : (bitsOfByte b)[n]? = some (b.getLsbD (7 - n)) := by
  interval_cases n <;> rfl

/-- Bit `n` of a run of bytes belongs to byte `n / 8`. -/
theorem getElem?_flatMap_bitsOfByte (bytes : List Byte) (n : Nat) :
    (bytes.flatMap bitsOfByte)[n]? = bytes[n / 8]?.map fun b => b.getLsbD (7 - n % 8) := by
  induction bytes generalizing n with
  | nil => rfl
  | cons b rest ih =>
    rw [List.flatMap_cons]
    by_cases h : n < 8
    · rw [List.getElem?_append_left h, getElem?_bitsOfByte b h, Nat.div_eq_of_lt h, Nat.mod_eq_of_lt h]
      rfl
    · have hle : 8 ≤ n := Nat.le_of_not_lt h
      have hdiv : n / 8 = (n - 8) / 8 + 1 := by omega
      rw [List.getElem?_append_right hle, length_bitsOfByte, ih, hdiv, List.getElem?_cons_succ,
        ← Nat.mod_eq_sub_mod hle]

/-- A byte with the bit that is carried `n`-th changed. -/
def flipBit (n : Nat) (b : Byte) : Byte := b ^^^ BitVec.twoPow 8 (7 - n)

theorem getLsbD_flipBit {n m : Nat} (hn : n < 8) (hm : m < 8) (b : Byte) :
    (flipBit n b).getLsbD (7 - m) = if n = m then !b.getLsbD (7 - m) else b.getLsbD (7 - m) := by
  have hplace : 7 - n = 7 - m ↔ n = m := by omega
  have hlt : 7 - n < 8 := by omega
  simp only [flipBit, BitVec.getLsbD_xor, BitVec.getLsbD_twoPow, hlt, hplace]
  by_cases h : n = m <;> simp [h]

theorem flipBit_ne {n : Nat} (hn : n < 8) (b : Byte) : flipBit n b ≠ b := by
  intro h
  have hbit := getLsbD_flipBit hn hn b
  rw [h, if_pos rfl] at hbit
  exact Bool.not_ne_self _ hbit.symm

/-- One bit changed on the wire is one bit changed in the byte it belongs to. -/
theorem modify_flatMap_bitsOfByte (bytes : List Byte) (k : Nat) :
    (bytes.flatMap bitsOfByte).modify k not = (bytes.modify (k / 8) (flipBit (k % 8))).flatMap bitsOfByte := by
  apply List.ext_getElem?
  intro n
  rw [List.getElem?_modify, getElem?_flatMap_bitsOfByte, getElem?_flatMap_bitsOfByte, List.getElem?_modify]
  cases bytes[n / 8]? with
  | none => rfl
  | some b =>
    have hk : k % 8 < 8 := Nat.mod_lt _ (by decide)
    have hn : n % 8 < 8 := Nat.mod_lt _ (by decide)
    by_cases hbyte : k / 8 = n / 8
    · have hsame : k = n ↔ k % 8 = n % 8 := by omega
      simp only [Option.map_some, Option.map_eq_map, hbyte, if_true, getLsbD_flipBit hk hn, hsame]
    · have hother : k ≠ n := fun h => hbyte (by rw [h])
      simp only [Option.map_some, Option.map_eq_map, hbyte, hother, if_false]

end Bits

/-! ### CRC (R146) -/

section Crc

/-- The low bit after a shift is the bit shifted out. -/
theorem getLsbD_crcShift_zero (r : BitVec 16) : (crcShift r).getLsbD 0 = r.msb := by
  unfold crcShift
  split <;> simp_all [Config.crcPolynomial]

theorem crcShift_injective : Function.Injective crcShift := by
  intro r r' h
  have hmsb : r.msb = r'.msb := by rw [← getLsbD_crcShift_zero, h, getLsbD_crcShift_zero]
  have hshift : r <<< 1 = r' <<< 1 := by
    unfold crcShift at h
    rw [hmsb] at h
    split at h
    · exact (BitVec.xor_left_inj _).mp h
    · exact h
  simp only [BitVec.msb_eq_decide, decide_eq_decide] at hmsb
  bv_omega

/-- The register before a byte is known from the register after it. -/
theorem crcByte_injective_register (b : Byte) : Function.Injective fun r => crcByte r b := fun _ _ h =>
  (BitVec.xor_left_inj _).mp (crcShift_injective.iterate 8 h)

/-- The byte taken is known from the register before and after it. -/
theorem crcByte_injective_byte (r : BitVec 16) : Function.Injective (crcByte r) := by
  intro b b' h
  have hshift : b.setWidth 16 <<< 8 = b'.setWidth 16 <<< 8 :=
    (BitVec.xor_right_inj _).mp (crcShift_injective.iterate 8 h)
  bv_omega

theorem foldl_crcByte_injective (bytes : List Byte) : Function.Injective fun r => bytes.foldl crcByte r := by
  induction bytes with
  | nil => exact Function.injective_id
  | cons b rest ih => exact ih.comp (crcByte_injective_register b)

/-- A run of bytes in which one byte has changed leaves another register. -/
theorem foldl_crcByte_modify_ne {f : Byte → Byte} (hf : ∀ b, f b ≠ b) (bytes : List Byte) {j : Nat}
    (hj : j < bytes.length) (r : BitVec 16) : (bytes.modify j f).foldl crcByte r ≠ bytes.foldl crcByte r := by
  induction bytes generalizing j r with
  | nil => cases hj
  | cons b rest ih =>
    cases j with
    | zero => exact fun h => hf b (crcByte_injective_byte r (foldl_crcByte_injective rest h))
    | succ j => exact ih (Nat.lt_of_succ_lt_succ hj) (crcByte r b)

/-- The two bytes of a CRC give the CRC back. -/
theorem leBytes_two_injective : Function.Injective (leBytes 2 : BitVec 16 → List Byte) := by
  intro x y h
  obtain ⟨h0, h1⟩ : byteAt x 0 = byteAt y 0 ∧ byteAt x 1 = byteAt y 1 := by
    simpa [leBytes, List.range_succ] using h
  rw [← Machine.byteAt_append_two x, ← Machine.byteAt_append_two y, h0, h1]

end Crc

/-! ### Whole frames -/

section Frames
variable {body f : List Byte}

theorem length_withCrc : (withCrc body).length = body.length + 2 := by simp [withCrc, leBytes]

theorem take_withCrc (h : body.length = 92) : (withCrc body).take 92 = body := List.take_left' h

theorem drop_withCrc (h : body.length = 92) : (withCrc body).drop 92 = leBytes 2 (crc16 body) := List.drop_left' h

/-- The last two of the 94 bytes agree with the CRC of those before (R149, check 2). -/
def CrcAgrees (f : List Byte) : Prop := f.drop 92 = leBytes 2 (crc16 (f.take 92))

theorem crcAgrees_withCrc (h : body.length = 92) : CrcAgrees (withCrc body) := by
  rw [CrcAgrees, take_withCrc h, drop_withCrc h]

/-- One changed byte, before the CRC or in it, makes the CRC disagree. -/
theorem not_crcAgrees_modify {change : Byte → Byte} (hc : ∀ b, change b ≠ b) (hf : CrcAgrees f) {j : Nat}
    (hj : j < f.length) : ¬ CrcAgrees (f.modify j change) := by
  intro hbad
  unfold CrcAgrees at hf hbad
  rw [List.take_modify] at hbad
  by_cases hbody : j < 92
  · rw [List.drop_modify_of_lt _ _ _ _ hbody, hf] at hbad
    exact foldl_crcByte_modify_ne hc (f.take 92) (by simp [hbody, hj]) 0#16 (leBytes_two_injective hbad).symm
  · have hge : 92 ≤ j := Nat.le_of_not_lt hbody
    have hkept : (f.take 92).modify j change = f.take 92 := List.modify_eq_self ((List.length_take_le 92 f).trans hge)
    rw [hkept, ← hf, List.drop_modify_of_ge _ _ _ _ hge] at hbad
    have hat := congrArg (·[j - 92]?) hbad
    have hplace : 92 + (j - 92) = j := by omega
    simp [hplace, hj, hc] at hat

/-- The checks 2 to 5 of R149 on a frame of 94 bytes. -/
theorem frameTaken_eq (h : f.length = 94) :
    frameTaken f
      = if f.drop 92 ≠ leBytes 2 (crc16 (f.take 92)) then .fault .crc
        else if f[0]? = some 0xC3#8 then .resync
        else if f[0]? ≠ some 0x3C#8 then .fault .kind
        else if f[3]? ≠ some 0x00#8 then .fault .header
        else .command (f.getD 1 0) (f.getD 2 0) ((f.drop 4).take 88) := by
  have hcrc : (f.drop 92).take 2 = f.drop 92 := List.take_of_length_le (by simp [h])
  have hbyte {k : Nat} (hk : k < f.length) (b : Byte) : f.getD k 0 = b ↔ f[k]? = some b := by
    rw [List.getD_eq_getElem _ _ hk, List.getElem?_eq_getElem hk, Option.some_inj]
  unfold frameTaken
  simp only [hcrc, ne_eq, hbyte (show 0 < f.length by omega), hbyte (show 3 < f.length by omega)]

theorem frameTaken_of_not_crcAgrees (h : f.length = 94) (hc : ¬ CrcAgrees f) : frameTaken f = .fault .crc := by
  rw [frameTaken_eq h]
  exact if_pos hc

end Frames

/-- A short period is a link fault before anything of it is read (R149, check 1). -/
theorem taken_of_short {p : Period} (h : p.bits.length < 752) : p.taken = .fault .short := if_pos h

/-! ### The row that a period is (R149, checks 6 to 8) -/

section Rows
variable {stored : Option (Byte × Byte)} {p : Period} {code seq : Byte} {args : List Byte}

theorem linkInstr_of_fault {reason : LinkReason} (h : p.taken = .fault reason) :
    linkInstr stored p = .linkFault p := by
  rw [linkInstr, h]

theorem linkInstr_of_resync (h : p.taken = .resync) : linkInstr stored p = .resync := by
  rw [linkInstr, h]

theorem linkInstr_of_nop (h : p.taken = .command code seq args) (hc : code = 0x01#8) :
    linkInstr stored p = .nop seq := by
  rw [linkInstr, h]
  exact if_pos hc

theorem linkInstr_of_stored (h : p.taken = .command code seq args) (hc : code ≠ 0x01#8)
    (hs : stored = some (code, seq)) : linkInstr stored p = .duplicate code seq := by
  rw [linkInstr, h]
  exact (if_neg hc).trans (if_pos hs)

/-- A command that repeats nothing is the one its code names; for NOP the stored command is not consulted, and its code
names it all the same. -/
theorem linkInstr_of_not_stored (h : p.taken = .command code seq args) (hs : stored ≠ some (code, seq)) :
    linkInstr stored p = commandOf code seq args := by
  by_cases hc : code = 0x01#8
  · rw [linkInstr_of_nop h hc, hc]
    rfl
  · rw [linkInstr, h]
    exact (if_neg hc).trans (if_neg hs)

end Rows

end Sys2Proof

namespace Sys2Proof.Machine

/-- Settles O5: the length of the period, the checks on its frame, and then the stored command. -/
theorem periodsAreTakenThroughTheChecksInOrder : Obligations.PeriodsAreTakenThroughTheChecksInOrder :=
  ⟨fun _ h => taken_of_short h, fun f extra h => (taken_of_frame f extra h).trans (frameTaken_eq h),
    fun _ _ => ⟨fun _ h => linkInstr_of_fault h, linkInstr_of_resync,
      fun _ _ _ h => ⟨linkInstr_of_nop h, linkInstr_of_stored h, fun _ hs => linkInstr_of_not_stored h hs⟩⟩⟩

/-- Settles O7: the changed bit changes one byte, and each shift of the CRC register can be undone. -/
theorem oneChangedBitIsACrcFault : Obligations.OneChangedBitIsACrcFault := by
  intro body k hbody
  have hlen : (withCrc body).length = 94 := by rw [length_withCrc, hbody]
  have hchanges (b : Byte) : flipBit (k.val % 8) b ≠ b := flipBit_ne (Nat.mod_lt _ (by decide)) b
  rw [modify_flatMap_bitsOfByte]
  have hlen' : ((withCrc body).modify (k.val / 8) (flipBit (k.val % 8))).length = 94 := by rw [List.length_modify, hlen]
  refine (taken_ofBytes _ hlen').trans (frameTaken_of_not_crcAgrees hlen' ?_)
  exact not_crcAgrees_modify hchanges (crcAgrees_withCrc hbody) (by omega)

/-! ### The frames the block sends (R154, R181) -/

section Sent
variable (f : AnswerFrame)

/-- Bytes 0 to 91 of an outgoing frame: the header and the payload. -/
def AnswerFrame.body : List Byte := [f.kind.code, f.code, f.seq, f.status.code] ++ f.payload.toList

theorem AnswerFrame.bytes_eq : f.bytes = withCrc f.body := rfl

theorem AnswerFrame.length_body : f.body.length = 92 := by simp [AnswerFrame.body]

theorem AnswerFrame.length_bytes : f.bytes.length = 94 := by rw [f.bytes_eq, length_withCrc, f.length_body]

theorem AnswerFrame.take_bytes : f.bytes.take 92 = f.body := by rw [f.bytes_eq, take_withCrc f.length_body]

theorem AnswerFrame.drop_bytes :
    f.bytes.drop 92 = [(crc16 (f.bytes.take 92)).extractLsb' 0 8, (crc16 (f.bytes.take 92)).extractLsb' 8 8] := by
  rw [f.take_bytes, f.bytes_eq, drop_withCrc f.length_body]
  rfl

theorem AnswerFrame.header_bytes : f.bytes.take 4 = [f.kind.code, f.code, f.seq, f.status.code] := by
  rw [f.bytes_eq, withCrc, AnswerFrame.body, List.append_assoc]
  rfl

theorem AnswerFrame.payload_bytes : (f.bytes.drop 4).take 88 = f.payload.toList := by
  rw [f.bytes_eq, withCrc, AnswerFrame.body, List.append_assoc]
  exact List.take_left' f.payload.length_toList

end Sent

/-! ### TL_SDO (R145, R147) -/

section Sdo
variable {s : State} {chipSelected : Bool} {n : Nat}

theorem sdo_of_not_driven (h : chipSelected = false ∨ s.porstAsserted = true ∨ s.toolLink.awaitsHigh = true) :
    s.sdo chipSelected n = .highZ :=
  if_pos (by rcases h with h | h | h <;> simp [h])

theorem sdo_of_driven (hc : chipSelected = true) (hp : s.porstAsserted = false) (hw : s.toolLink.awaitsHigh = false) :
    s.sdo chipSelected n
      = if (s.toolLink.outgoing.bytes[n / 8]?.map fun b => b.getLsbD (7 - n % 8)).getD false then .high else .low := by
  rw [State.sdo, if_neg (by simp [hc, hp, hw]), List.getD_eq_getElem?_getD, getElem?_flatMap_bitsOfByte]

/-- After the last bit of the frame TL_SDO is low. -/
theorem sdo_after_frame (hc : chipSelected = true) (hp : s.porstAsserted = false) (hw : s.toolLink.awaitsHigh = false)
    (hn : 752 ≤ n) : s.sdo chipSelected n = .low := by
  have hend : s.toolLink.outgoing.bytes[n / 8]? = none := by
    rw [List.getElem?_eq_none_iff, AnswerFrame.length_bytes]
    omega
  rw [sdo_of_driven hc hp hw, hend]
  rfl

end Sdo

/-- Settles O4: the parts of a frame by their places, the codes case by case, and TL_SDO bit by bit. -/
theorem answerFramesCarryHeaderPayloadAndCrc : Obligations.AnswerFramesCarryHeaderPayloadAndCrc := by
  refine ⟨by decide +kernel, fun f => ⟨f.length_bytes, f.header_bytes, f.payload_bytes, f.drop_bytes, ?_, ?_,
    fun reason => ?_, fun s chipSelected n hout => ⟨sdo_of_not_driven, fun hc hp hw => ⟨fun byte hbyte => ?_,
      sdo_after_frame hc hp hw⟩⟩⟩⟩
  · cases f.kind <;> rfl
  · cases f.status <;> rfl
  · cases reason <;> rfl
  · rw [sdo_of_driven hc hp hw, hout, hbyte]
    rfl

end Sys2Proof.Machine
end

section
/-! PROOFS. The command frames: their codes and their arguments, read back as sent (O6). -/

namespace Sys2Proof

/-! ### The codes (R177) -/

/-- A code that names no command is UNKNOWN_COMMAND, whatever the payload. -/
theorem commandOf_of_unnamed {code : Byte} (h : namesCommand code = false) (seq : Byte) (p : List Byte) :
    commandOf code seq p = .unknownCommand code seq := by
  have hcode : code.toNat ∉ commandCodes := by simpa [namesCommand] using h
  unfold commandOf
  split
  case h_29 => rfl
  all_goals
    rename_i hval
    exact absurd (by rw [hval]; decide) hcode

theorem namesCommand_eq_false {code : Byte} (h : code ∉ commandCodes.map (BitVec.ofNat 8)) :
    namesCommand code = false := by
  have hcode : code.toNat ∉ commandCodes := fun hmem =>
    h (List.mem_map.mpr ⟨code.toNat, hmem, by rw [BitVec.ofNat_toNat, BitVec.setWidth_eq]⟩)
  simpa [namesCommand] using hcode

/-! ### Arguments at their payload bytes (11.5, 11.6) -/

section Arguments
variable (p : Payload) {k : Nat}

theorem argByte_toList (h : k < 88) : argByte p.toList k = p[k] := by
  simp [argByte, h]

theorem argHalf_toList (h : k + 1 < 88) : argHalf p.toList k = p[k + 1] ++ p[k] := by
  simp (disch := omega) only [argHalf, argByte_toList]

theorem argStamp_toList (h : k + 3 < 88) : argStamp p.toList k = p[k + 3] ++ p[k + 2] ++ p[k + 1] ++ p[k] := by
  simp (disch := omega) only [argStamp, argByte_toList]

theorem argAddress_toList (h : k + 4 < 88) :
    argAddress p.toList k = p[k + 4] ++ p[k + 3] ++ p[k + 2] ++ p[k + 1] ++ p[k] := by
  simp (disch := omega) only [argAddress, argByte_toList]

theorem argLine_toList (hk : k + 64 ≤ 88) {data : Line} (h : ∀ i : Fin 64, data[i] = p[k + i.val]) :
    argLine p.toList k = data := by
  apply Vector.ext
  intro i hi
  have hlt : k + i < 88 := by omega
  rw [argLine, Vector.getElem_ofFn, argByte_toList p hlt]
  exact (h ⟨i, hi⟩).symm

end Arguments

/-- The entry image of WRITE_ENTRY, from payload byte 1 (11.6). -/
theorem argImage_toList (p : Payload) :
    argImage p.toList 1
      = { base := p[5] ++ p[4] ++ p[3] ++ p[2] ++ p[1], careMask := p[10] ++ p[9] ++ p[8] ++ p[7] ++ p[6]
          access := p[11], sourceRef := p[12], sourceMask := p[13], action := p[14], captureSlot := p[15]
          group := p[16], runA := p[17], runB := p[18], runLength := p[19], writePolicy := p[20]
          fallback := p[21], trigger := p[22], oneShot := p[23] } := by
  simp (disch := omega) only [argImage, argAddress_toList, argByte_toList, Nat.reduceAdd]

/-! ### Arguments read back as sent -/

/-- An address is its five bytes (1.6). -/
theorem byteAt_append_five (x : BitVec 40) :
    byteAt x 4 ++ byteAt x 3 ++ byteAt x 2 ++ byteAt x 1 ++ byteAt x 0 = x := by
  apply BitVec.eq_of_getLsbD_eq
  intro i hi
  simp only [byteAt, BitVec.getLsbD_append, BitVec.getLsbD_extractLsb']
  interval_cases i <;> simp

/-- An entry image is read back from its bytes (11.6). -/
theorem argImage_imageBytes (index : Byte) (image : EntryImage) (rest : List Byte) :
    argImage (index :: imageBytes image ++ rest) 1 = image := by
  have hbase : argAddress (index :: imageBytes image ++ rest) 1 = image.base := byteAt_append_five image.base
  have hcare : argAddress (index :: imageBytes image ++ rest) 6 = image.careMask := byteAt_append_five image.careMask
  rw [argImage, hbase, hcare]
  rfl

/-- The 64 data bytes of WRITE_SLOT are read back (11.5). -/
theorem argLine_data (slot offset length : Byte) (data : Line) (rest : List Byte) :
    argLine (slot :: offset :: length :: data.toList ++ rest) 3 = data := by
  apply Vector.ext
  intro i hi
  have hplace : 3 + i = i + 1 + 1 + 1 := by omega
  have hlt : i < data.toList.length := by rwa [Vector.length_toList]
  simp [argLine, argByte, hplace, List.getElem?_append_left hlt, hi]

/-- A command is read back from its code, its sequence and its argument bytes, whatever stands after them. -/
theorem commandOf_commandFields {i : Instr} {code seq : Byte} {args : List Byte} (hwf : i.wellFormed = true)
    (hf : commandFields i = some (code, seq, args)) (rest : List Byte) : commandOf code seq (args ++ rest) = i := by
  cases i <;> cases hf
  case unknownCommand => exact commandOf_of_unnamed (by simpa [Instr.wellFormed] using hwf) _ _
  case writeEntry index image => exact congrArg (Instr.writeEntry seq index) (argImage_imageBytes index image rest)
  case writeSlot slot offset length data =>
    exact congrArg (Instr.writeSlot seq slot offset length) (argLine_data slot offset length data rest)
  case ackSlot slot sequence => exact congrArg (Instr.ackSlot seq slot) (Machine.byteAt_append_two sequence)
  case setLimits response stall =>
    exact congrArg₂ (Instr.setLimits seq) (Machine.byteAt_append_two response) (Machine.byteAt_append_two stall)
  case setTimebase prescaler load value =>
    exact congrArg₂ (Instr.setTimebase seq · load ·) (Machine.byteAt_append_two prescaler)
      (Machine.byteAt_append_four value)
  case clearCounters set => exact congrArg (Instr.clearCounters seq) (Machine.byteAt_append_two set)
  case setAlertEnable set => exact congrArg (Instr.setAlertEnable seq) (Machine.byteAt_append_two set)
  case ackAlert set => exact congrArg (Instr.ackAlert seq) (Machine.byteAt_append_two set)
  all_goals rfl

/-! ### The frame of a command (11.1) -/

/-- The arguments of every command fit the payload (11.5). -/
theorem length_args_le {i : Instr} {code seq : Byte} {args : List Byte}
    (hf : commandFields i = some (code, seq, args)) : args.length ≤ 88 := by
  cases i <;> cases hf <;> simp [imageBytes, leBytes]

section Frames
variable (code seq : Byte) {args : List Byte}

/-- The payload of a command frame: the arguments, and zeros to byte 91. -/
def paddedArgs (args : List Byte) : List Byte := args ++ List.replicate (88 - args.length) 0x00#8

theorem length_paddedArgs (h : args.length ≤ 88) : (paddedArgs args).length = 88 := by
  rw [paddedArgs, List.length_append, List.length_replicate, Nat.add_sub_cancel' h]

theorem commandFrame_eq (args : List Byte) :
    commandFrame code seq args = withCrc ([0x3C#8, code, seq, 0x00#8] ++ paddedArgs args) := by
  rw [commandFrame, List.append_assoc, paddedArgs]

theorem length_commandBody (h : args.length ≤ 88) : ([0x3C#8, code, seq, 0x00#8] ++ paddedArgs args).length = 92 := by
  rw [List.length_append, length_paddedArgs h]
  rfl

theorem length_commandFrame (h : args.length ≤ 88) : (commandFrame code seq args).length = 94 := by
  rw [commandFrame_eq, length_withCrc, length_commandBody code seq h]

/-- A command frame passes the checks 2 to 5 of R149 with its code, sequence and payload. -/
theorem frameTaken_commandFrame (h : args.length ≤ 88) :
    frameTaken (commandFrame code seq args) = .command code seq (paddedArgs args) := by
  have hcrc := crcAgrees_withCrc (length_commandBody code seq h)
  rw [← commandFrame_eq, CrcAgrees] at hcrc
  have hpayload : ((commandFrame code seq args).drop 4).take 88 = paddedArgs args := by
    rw [commandFrame_eq, withCrc, List.append_assoc]
    exact List.take_left' (length_paddedArgs h)
  rw [frameTaken_eq (length_commandFrame code seq h), if_neg (not_not_intro hcrc), hpayload]
  rfl

end Frames

end Sys2Proof

namespace Sys2Proof.Machine

/-- Settles O6: the frame passes the checks and gives its fields, which name the command; then code by code. -/
theorem commandFramesAreTakenAsTheirCommand : Obligations.CommandFramesAreTakenAsTheirCommand := by
  refine ⟨fun i code seq args frame extra stored hwf hf hframe hs => ?_, fun code seq p hcode => ?_,
    fun seq p data hdata => ?_⟩
  · have hle := length_args_le hf
    obtain rfl : commandFrame code seq args = frame := by
      rw [encodeFrame, hf] at hframe
      exact Option.some.inj hframe
    have htaken :=
      (taken_of_frame _ extra (length_commandFrame code seq hle)).trans (frameTaken_commandFrame code seq hle)
    exact (linkInstr_of_not_stored htaken hs).trans (commandOf_commandFields hwf hf _)
  · have hname := namesCommand_eq_false hcode
    exact ⟨hname, commandOf_of_unnamed hname seq p.toList⟩
  · have hbyte (k : Nat) (h : k < 88 := by decide) : argByte p.toList k = p[k] := argByte_toList p h
    have hhalf (k : Nat) (h : k + 1 < 88 := by decide) : argHalf p.toList k = p[k + 1] ++ p[k] := argHalf_toList p h
    have hstamp := argStamp_toList p (k := 3) (by decide)
    have hline := argLine_toList p (by decide) hdata
    refine ⟨rfl, rfl, rfl, congrArg₂ (Instr.writeEntry seq) (hbyte 0) (argImage_toList p),
      congrArg (Instr.readEntry seq) (hbyte 0), congrArg (Instr.enableEntry seq) (hbyte 0),
      congrArg (Instr.disableEntry seq) (hbyte 0), congrArg (Instr.clearEntryCounts seq) (hbyte 0),
      congrArg (Instr.setMode seq) (hbyte 0), congrArg (Instr.takeSlot seq) (hbyte 0),
      congrArg (Instr.releaseSlot seq) (hbyte 0), ?writeSlot, congrArg (Instr.readSlot seq) (hbyte 0),
      congrArg₂ (Instr.ackSlot seq) (hbyte 0) (hhalf 1), rfl, ?configQueue, rfl,
      congrArg₂ (Instr.switchBank seq) (hbyte 0) (hbyte 1), congrArg (Instr.sessionArm seq) (hbyte 0),
      congrArg (Instr.sessionRun seq) (hbyte 0), rfl, rfl, congrArg₂ (Instr.setLimits seq) (hhalf 0) (hhalf 2),
      ?setTimebase, rfl, congrArg (Instr.clearCounters seq) (hhalf 0), congrArg (Instr.setAlertEnable seq) (hhalf 0),
      congrArg (Instr.ackAlert seq) (hhalf 0)⟩
    case writeSlot =>
      show Instr.writeSlot seq (argByte p.toList 0) (argByte p.toList 1) (argByte p.toList 2) (argLine p.toList 3) = _
      rw [hbyte 0, hbyte 1, hbyte 2, hline]
    case configQueue =>
      show Instr.configQueue seq (argByte p.toList 0) (argByte p.toList 1) (argByte p.toList 2) (argByte p.toList 3) = _
      rw [hbyte 0, hbyte 1, hbyte 2, hbyte 3]
    case setTimebase =>
      show Instr.setTimebase seq (argHalf p.toList 0) (argByte p.toList 2) (argStamp p.toList 3) = _
      rw [hhalf 0, hbyte 2, hstamp]

end Sys2Proof.Machine
end

section
/-! PROOFS. What a command frame does to the Tool Link, and the Link's own rows (O8, O9, O10). -/

namespace Sys2Proof.Machine

/-- Every command frame but NOP goes through the stored pair to the run of its command (R149, checks 7 and 8). -/
theorem exec_eq_linkExecute {i : Instr} {code seq : Byte} {args : List Byte} (hwf : i.wellFormed = true)
    (hf : commandFields i = some (code, seq, args)) (hc : code ≠ 0x01#8) :
    ∃ run : State → State × Answer, ∀ s : State, exec i s = .next (linkExecute code seq run s) := by
  cases i <;> cases hf
  case nop => exact absurd rfl hc
  case unknownCommand =>
    have hname : namesCommand code = false := by simpa [Instr.wellFormed] using hwf
    exact ⟨fun s => (s, answer .unknown), fun s => by rw [exec, execUnknownCommand, hname]; rfl⟩
  all_goals exact ⟨_, fun _ => rfl⟩

section Rows
variable {s : State}

/-- DUPLICATE of the stored pair is replayed (R152). -/
theorem exec_duplicate_of_stored {c : StoredCommand} (hp : s.TakesPeriods) (h : s.toolLink.stored = some c) :
    exec (.duplicate c.code c.seq) s = .next (s.setOutgoing (replayFrame c)) := by
  rw [exec, execDuplicate, takePeriod_of_takes hp]
  simp [State.storedPair, State.replay, h]

/-- NOP is answered whatever is stored (R158). -/
theorem exec_nop_of_takes (hp : s.TakesPeriods) (seq : Byte) :
    exec (.nop seq) s = .next (s.setOutgoing (responseFrame 0x01#8 seq (answer .ok))) := by
  rw [exec, execNop, takePeriod_of_takes hp]

/-- A resync puts the Link's three items to their values after PORST (R153). -/
theorem exec_resync_of_takes (hp : s.TakesPeriods) : exec .resync s = .next { s with toolLink := ToolLink.porst } := by
  rw [exec, execResync, takePeriod_of_takes hp]

/-- An unknown code is answered UNKNOWN, and stored (R151). -/
theorem exec_unknownCommand_of_executes {code seq : Byte} (hx : s.Executes code seq) (h : namesCommand code = false) :
    exec (.unknownCommand code seq) s = .next (s.store code seq (answer .unknown)) := by
  rw [exec, execUnknownCommand, h]
  exact toolCommand_of_eq (run := fun s => (s, answer .unknown)) hx rfl

/-- A faulty period is answered and counted with its reason (R150). -/
theorem exec_linkFault_of_fault {p : Period} {reason : LinkReason} (hp : s.TakesPeriods)
    (h : p.taken = .fault reason) : exec (.linkFault p) s = .next (s.linkFault reason) := by
  rw [exec, execLinkFault, takePeriod_of_takes hp, h]

end Rows

/-- Settles O8: either row finds the pair stored. -/
theorem repeatedCommandsAreReplayedAndNotExecuted : Obligations.RepeatedCommandsAreReplayedAndNotExecuted := by
  intro s c hp hstored
  refine ⟨fun i args hwf hf hc => ?_, exec_duplicate_of_stored hp hstored⟩
  obtain ⟨run, hrun⟩ := exec_eq_linkExecute hwf hf hc
  rw [hrun, linkExecute_of_stored hp hstored rfl rfl]
  rfl

/-- Settles O9: the run of the command ends in its answer, which the Link stores and sends. -/
theorem executedCommandsAreStoredWithTheirAnswer : Obligations.ExecutedCommandsAreStoredWithTheirAnswer := by
  intro i code seq args s hwf hf hc hx
  obtain ⟨run, hrun⟩ := exec_eq_linkExecute hwf hf hc
  exact ⟨(run s).1.store code seq (run s).2, (run s).2, by rw [hrun, linkExecute_of_executes hx], rfl⟩

/-- Settles O10: row by row, and for a fault reason by reason. -/
theorem linkAnswersNopResyncUnknownAndFaults : Obligations.LinkAnswersNopResyncUnknownAndFaults := by
  refine ⟨fun s hp => ⟨exec_nop_of_takes hp, exec_resync_of_takes hp,
    fun code seq hname hs => exec_unknownCommand_of_executes ⟨hp, hs⟩ hname⟩, fun s p reason hp h => ?_⟩
  rw [exec_linkFault_of_fault hp h]
  cases reason <;> rfl

end Sys2Proof.Machine
end

section
/-! PROOFS. The Alert and Counter Unit: notices, the ALERT line, and the alert and counter commands (O11, O12). -/

namespace Sys2Proof.Machine

/-! ### The places of causes and counters (11.9, 11.10) -/

theorem Cause.ofNat_bit (c : Cause) : Cause.ofNat c.bit.val = c := by cases c <;> rfl

theorem Cause.bit_ofNat (i : Fin 11) : (Cause.ofNat i.val).bit = i := by
  revert i
  decide

theorem Counter.ofNat_place (k : Counter) : Counter.ofNat k.place.val = k := by cases k <;> rfl

/-- Each bit of a cause set stands for a cause. -/
theorem Cause.bit_surjective : Function.Surjective Cause.bit := fun i => ⟨Cause.ofNat i.val, Cause.bit_ofNat i⟩

/-- No two causes share a bit. -/
theorem Cause.bit_inj {c c' : Cause} : c.bit.val = c'.bit.val ↔ c = c' :=
  ⟨fun h => by rw [← Cause.ofNat_bit c, h, Cause.ofNat_bit], congrArg fun x : Cause => x.bit.val⟩

/-- No two counters share a place. -/
theorem Counter.place_inj {k k' : Counter} : k.place.val = k'.place.val ↔ k = k' :=
  ⟨fun h => by rw [← Counter.ofNat_place k, h, Counter.ofNat_place], congrArg fun x : Counter => x.place.val⟩

/-! ### Notices and the ALERT line (R169, R170, R173) -/

section Notices
variable (s : State) (k : Counter) (c : Cause)

theorem State.raise_counter : (s.raise c).counter k = s.counter k := rfl

theorem State.raise_isEnabled (c' : Cause) : (s.raise c).isEnabled c' = s.isEnabled c' := rfl

theorem State.count_isPending : (s.count k).isPending c = s.isPending c := rfl

theorem State.count_isEnabled : (s.count k).isEnabled c = s.isEnabled c := rfl

theorem State.raise_isPending (c' : Cause) : (s.raise c).isPending c' = (decide (c' = c) || s.isPending c') := by
  simp [State.raise, State.isPending, Cause.bit_inj, eq_comm, Bool.or_comm]

theorem State.count_counter_self : (s.count k).counter k = satInc (s.counter k) := by
  simp [State.count, State.counter]

theorem State.count_counter_of_ne {k' : Counter} (h : k' ≠ k) : (s.count k).counter k' = s.counter k' := by
  have hplace : k.place.val ≠ k'.place.val := fun hk => h (Counter.place_inj.mp hk).symm
  simp [State.count, State.counter, Vector.getElem_set_ne, hplace]

/-- ALERT asks for one cause that is both pending and enabled (R170). -/
theorem State.alert_iff : s.alert = true ↔ ∃ c' : Cause, s.isPending c' = true ∧ s.isEnabled c' = true := by
  have hzero : s.alerts.pendingSet &&& s.alerts.enableSet = 0#11
      ↔ ∀ i : Fin 11, ¬ (s.alerts.pendingSet.getLsbD i.val = true ∧ s.alerts.enableSet.getLsbD i.val = true) := by
    simp only [BitVec.eq_of_getLsbD_eq_iff, Fin.forall_iff, BitVec.getLsbD_and, BitVec.getLsbD_zero, ← Bool.and_eq_true,
      Bool.not_eq_true]
  rw [State.alert, bne_iff_ne, ne_eq, hzero, Cause.bit_surjective.forall]
  push Not
  rfl

theorem State.alertN_eq : s.alertN = if s.alert = true ∧ s.porstAsserted = false then .low else .highZ := by
  simp [State.alertN]

end Notices

/-- Settles O11: the counter by its place, the cause by its bit, and the line by the causes' bits. -/
theorem noticesRaiseTheirCounterAndCause : Obligations.NoticesRaiseTheirCounterAndCause := by
  intro s k c
  refine ⟨?_, fun k' h => ?_, fun c' => ?_, fun c' => ?_, s.alert_iff, s.alertN_eq, ?_, ?_, rfl, rfl, rfl⟩
  · rw [State.countAndRaise, State.raise_counter, State.count_counter_self, satInc_eq]
  · rw [State.countAndRaise, State.raise_counter, State.count_counter_of_ne s k h]
  · rw [State.countAndRaise, State.raise_isPending, State.count_isPending]
  · rw [State.countAndRaise, State.raise_isEnabled, State.count_isEnabled]
  · cases c <;> rfl
  · cases k <;> rfl

/-! ### The sets that the commands name (R180) -/

section Images
variable {set : HalfWord}

theorem shiftRight_eleven_eq_zero : set >>> 11 = 0#16 ↔ set.toNat < 2048 := by
  rw [← BitVec.toNat_inj, BitVec.toNat_ushiftRight, Nat.shiftRight_eq_div_pow, BitVec.toNat_zero]
  omega

/-- A set that names a position other than the eleven is no set. -/
theorem setOfImage_of_ge (h : 2048 ≤ set.toNat) : setOfImage set = none :=
  if_neg fun hz => Nat.not_lt.mpr h (shiftRight_eleven_eq_zero.mp hz)

theorem setOfImage_of_lt (h : set.toNat < 2048) : setOfImage set = some (set.setWidth 11) :=
  if_pos (shiftRight_eleven_eq_zero.mpr h)

end Images

/-- A set as its two bytes, by shifts (11.9). -/
theorem setBytes_eq (x : BitVec 11) : setBytes x = [x.setWidth 8, (x >>> 8).setWidth 8] := by
  rw [setBytes, leBytes_two]
  rfl

/-! ### The counter block (11.10) -/

theorem length_counterBytes (a : Alerts) : (counterBytes a).length = 22 := by
  simp [counterBytes, leBytes_two, List.length_flatMap]

/-- Half word n of a block of half words stands at bytes 2n and 2n + 1. -/
theorem take_drop_flatMap_leBytes (l : List (BitVec 16)) {n : Nat} (h : n < l.length) :
    ((l.flatMap (leBytes 2)).drop (2 * n)).take 2 = leBytes 2 l[n] := by
  induction l generalizing n with
  | nil => cases h
  | cons x l ih =>
    cases n with
    | zero => simp [leBytes_two]
    | succ n => simpa [leBytes_two, Nat.mul_add] using ih (Nat.lt_of_succ_lt_succ h)

theorem counterBytes_at (s : State) (k : Counter) : ((counterBytes s.alerts).drop (2 * k.place.val)).take 2
    = [(s.counter k).setWidth 8, (s.counter k >>> 8).setWidth 8] := by
  rw [counterBytes, take_drop_flatMap_leBytes _ (by simp), leBytes_two]
  rfl

/-! ### The commands (R171, R172, R174, R175) -/

section Commands
variable {s : State} {set : HalfWord}

theorem setAlertEnable_of_ge (h : 2048 ≤ set.toNat) : setAlertEnable set s = (s, badArg .field) := by
  rw [setAlertEnable, setOfImage_of_ge h]

theorem setAlertEnable_of_lt (h : set.toNat < 2048) : setAlertEnable set s
    = ({ s with alerts := { s.alerts with enableSet := set.setWidth 11 } }, answer .ok) := by
  rw [setAlertEnable, setOfImage_of_lt h]

theorem ackAlert_of_ge (h : 2048 ≤ set.toNat) : ackAlert set s = (s, badArg .field) := by
  rw [ackAlert, setOfImage_of_ge h]

/-- What ACK_ALERT leaves: the named flags are clear. -/
def State.acked (s : State) (set : BitVec 11) : State :=
  { s with alerts := { s.alerts with pendingSet := s.alerts.pendingSet &&& ~~~set } }

theorem ackAlert_of_lt (h : set.toNat < 2048) : ackAlert set s = (s.acked (set.setWidth 11),
    answerWith .ok [s.alerts.pendingSet.setWidth 8, (s.alerts.pendingSet >>> 8).setWidth 8]) := by
  rw [ackAlert, setOfImage_of_lt h, ← setBytes_eq]
  rfl

theorem State.acked_isPending (c : Cause) :
    (s.acked (set.setWidth 11)).isPending c = (s.isPending c && !set.getLsbD c.bit.val) := by
  simp [State.acked, State.isPending]

theorem clearCounters_of_ge (h : 2048 ≤ set.toNat) : clearCounters set s = (s, badArg .field) := by
  rw [clearCounters, setOfImage_of_ge h]

/-- What CLEAR_COUNTERS leaves: the named counters are 0. -/
def State.cleared (s : State) (set : BitVec 11) : State :=
  { s with alerts := { s.alerts with counters := clearedCounters set s.alerts.counters } }

theorem clearCounters_of_lt (h : set.toNat < 2048) :
    clearCounters set s = (s.cleared (set.setWidth 11), answerWith .ok (counterBytes s.alerts)) := by
  rw [clearCounters, setOfImage_of_lt h]
  rfl

theorem State.cleared_counter (k : Counter) :
    (s.cleared (set.setWidth 11)).counter k = if set.getLsbD k.place.val then 0 else s.counter k := by
  simp [State.cleared, State.counter, clearedCounters]

end Commands

/-- Settles O12: command by command, on either side of the last set that names only the eleven. -/
theorem alertAndCounterCommandsActOnTheNamedSet : Obligations.AlertAndCounterCommandsActOnTheNamedSet := by
  refine ⟨fun s seq set => ⟨fun hx => ⟨fun hge => ?_, fun hlt => ?_⟩, fun hx => ⟨fun hge => ?_, fun hlt => ?_⟩⟩,
    fun s seq set => ⟨fun hx => ?_, fun hx => ⟨fun hge => ?_, fun hlt => ?_⟩, fun k => ?_⟩⟩
  · exact toolCommand_of_eq hx (setAlertEnable_of_ge hge)
  · exact toolCommand_of_eq hx (setAlertEnable_of_lt hlt)
  · exact toolCommand_of_eq hx (ackAlert_of_ge hge)
  · exact ⟨_, toolCommand_of_eq hx (ackAlert_of_lt hlt), rfl, State.acked_isPending⟩
  · exact toolCommand_of_eq (run := readCounters) hx rfl
  · exact toolCommand_of_eq hx (clearCounters_of_ge hge)
  · exact ⟨_, toolCommand_of_eq hx (clearCounters_of_lt hlt), rfl, State.cleared_counter⟩
  · exact ⟨length_counterBytes s.alerts, counterBytes_at s k⟩

end Sys2Proof.Machine
end

section
/-! PROOFS. The block as a whole: a step and the queue of waiting commands (O1). -/

namespace Sys2Proof.Machine

/-! ### A step (log 2) -/

section Step
variable {s : State}

theorem step_of_pending_cons {c : Instr} {rest : List Instr} (h : s.pending = c :: rest) :
    step s = exec c { s with pending := rest } := by
  rw [step, h]

theorem step_of_pending_nil (h : s.pending = []) : step s = .next s := by rw [step, h]

end Step

/-! ### The waiting commands -/

/-- The waiting commands are outside every meaning's frame; PORST, which takes every other item but a pin from the reset
state, gives them back as they were (log 9). -/
theorem exec_pending {c : Instr} {s t : State} (h : exec c s = .next t) : t.pending = s.pending := by
  cases c with
  | porst => cases h; rfl
  | porstRelease low => rw [execPorstRelease_frame low h]
  | srst => rw [execSrst_frame h]
  | srstRelease => rw [execSrstRelease_frame h]
  | requestAccept request => rw [execRequestAccept_frame request h]
  | classify => rw [execClassify_frame h]
  | startTrigger => rw [execStartTrigger_frame h]
  | watchAction => rw [execWatchAction_frame h]
  | captureSlotAction => rw [execCaptureSlotAction_frame h]
  | captureQueueAction => rw [execCaptureQueueAction_frame h]
  | overlayAction => rw [execOverlayAction_frame h]
  | historyAppend => rw [execHistoryAppend_frame h]
  | recordNotice => rw [execRecordNotice_frame h]
  | stopTrigger => rw [execStopTrigger_frame h]
  | oneShotRetire => rw [execOneShotRetire_frame h]
  | mportSend => rw [execMportSend_frame h]
  | memoryResponse tag status beats => rw [execMemoryResponse_frame tag status beats h]
  | tick => rw [execTick_frame h]
  | responseLimitExpiry entry => rw [execResponseLimitExpiry_frame entry h]
  | stallLimitExpiry => rw [execStallLimitExpiry_frame h]
  | arbiterGrant => rw [execArbiterGrant_frame h]
  | linkFault period => rw [execLinkFault_frame period h]
  | resync => rw [execResync_frame h]
  | duplicate code seq => rw [execDuplicate_frame code seq h]
  | unknownCommand code seq => rw [execUnknownCommand_frame code seq h]
  | nop seq => rw [execNop_frame seq h]
  | getStatus seq => rw [execGetStatus_frame seq h]
  | clearUnit seq => rw [execClearUnit_frame seq h]
  | writeEntry seq index image => rw [execWriteEntry_frame seq index image h]
  | readEntry seq index => rw [execReadEntry_frame seq index h]
  | enableEntry seq index => rw [execEnableEntry_frame seq index h]
  | disableEntry seq index => rw [execDisableEntry_frame seq index h]
  | clearEntryCounts seq index => rw [execClearEntryCounts_frame seq index h]
  | setMode seq mode => rw [execSetMode_frame seq mode h]
  | takeSlot seq slot => rw [execTakeSlot_frame seq slot h]
  | releaseSlot seq slot => rw [execReleaseSlot_frame seq slot h]
  | writeSlot seq slot offset length data => rw [execWriteSlot_frame seq slot offset length data h]
  | readSlot seq slot => rw [execReadSlot_frame seq slot h]
  | ackSlot seq slot sequence => rw [execAckSlot_frame seq slot sequence h]
  | readHistory seq => rw [execReadHistory_frame seq h]
  | configQueue seq first count mode watermark => rw [execConfigQueue_frame seq first count mode watermark h]
  | popQueue seq => rw [execPopQueue_frame seq h]
  | switchBank seq group bank => rw [execSwitchBank_frame seq group bank h]
  | sessionArm seq count => rw [execSessionArm_frame seq count h]
  | sessionRun seq count => rw [execSessionRun_frame seq count h]
  | sessionHalt seq => rw [execSessionHalt_frame seq h]
  | sessionClear seq => rw [execSessionClear_frame seq h]
  | setLimits seq response stall => rw [execSetLimits_frame seq response stall h]
  | setTimebase seq prescaler load value => rw [execSetTimebase_frame seq prescaler load value h]
  | readCounters seq => rw [execReadCounters_frame seq h]
  | clearCounters seq set => rw [execClearCounters_frame seq set h]
  | setAlertEnable seq set => rw [execSetAlertEnable_frame seq set h]
  | ackAlert seq set => rw [execAckAlert_frame seq set h]

/-- Settles O1: every command ends in a next state, and that state's waiting commands are those before it. -/
theorem stepRunsTheFrontCommandAndNeverStops : Obligations.StepRunsTheFrontCommandAndNeverStops := by
  refine ⟨⟨fun _ _ _ h => step_of_pending_cons h, fun _ h => step_of_pending_nil h⟩, fun c s => ?_⟩
  obtain ⟨t, ht⟩ := exec_next c s
  exact ⟨t, ht, exec_pending ht⟩

end Sys2Proof.Machine
end
